-- ==== Sys2Proof/Word.lean ====
section
/-! DEFINITION. The word types of the machine: 00_scope.md R7 and R8 (W = 32, XIDX = 5, CIDX = 12). -/

namespace Sys2Proof

/-- A Word (R8): 32 bits, for registers, addresses, immediates and the pc. -/
abbrev Word := BitVec 32

/-- A byte of memory (20_memory.md R42). -/
abbrev Byte := BitVec 8

/-- A general register's index (10_state.md R11): 5 bits. -/
abbrev RegIdx := BitVec 5

/-- A CSR's index (10_state.md R20): 12 bits. -/
abbrev CsrIdx := BitVec 12

end Sys2Proof
end

