-- ==== Sys2Proof/Config.lean ====
section
/-! DEFINITION. The parameters of 00_scope.md R7 that the model fixes, and the values it names where the spec
leaves one open. Each open one has its row in notes/assumptions. -/

namespace Sys2Proof

/-- CSR index of the host-communication CSR `tohost` (10_state.md R21; decision D11, log entry 9). -/
def Config.csrTohost : CsrIdx := 0x780#12

/-- CSR index of the timer counter `cycle` (10_state.md R22; decision D10, log entry 9). -/
def Config.csrCycle : CsrIdx := 0xC00#12

/-- CSR index of the retired-instruction counter `instret` (10_state.md R23; decision D10, log entry 9). -/
def Config.csrInstret : CsrIdx := 0xC02#12

/-- What a read of `tohost` returns (10_state.md R21). DESIGN CHOICE, log entry 8: U9 asks that no claim
rest on it. -/
def Config.tohostReadValue : Word := 0#32

/-- START_ADDRESS of `State.reset` (00_scope.md R7: OPEN). DESIGN CHOICE, unsafe, log entry 1. -/
def Config.startAddress : Word := 0#32

/-- What `x1` to `x31` hold in `State.reset` (10_state.md R35: unspecified). DESIGN CHOICE, unsafe, log entry 2. -/
def Config.unspecifiedRegister : Word := 0#32

/-- What a byte of memory that nothing has written reads as (20_memory.md R40, 93_implementation_defined.md U3:
any value). DESIGN CHOICE, unsafe, log entry 4. -/
def Config.unlistedByte : Byte := 0#8

/-- What the pc and the counters hold at power-on (70_reset_and_hazards.md R232: unspecified). DESIGN CHOICE,
unsafe, log entry 10. -/
def Config.unspecifiedPowerOn : Word := 0#32

end Sys2Proof
end

