-- ==== Sys2Proof/Syntax.lean ====
section
/-! DEFINITION. AVS-33, the 33 instructions of 30_encoding.md R63, with the operands of R80: one constructor per
row of opcode_table.json, in the table's order. -/

namespace Sys2Proof

/-- The instructions of AVS-33 (30_encoding.md R63). A 12-bit `imm` is inst[31:20] or its S-format scatter, an
`imm20` is inst[31:12], an `offset` is the byte offset with its constant bit 0 (R67, R69), a `shamt` is
inst[24:20], a `csr` is inst[31:20]. -/
inductive Instr where
  | add (rd rs1 rs2 : RegIdx)
  | sub (rd rs1 rs2 : RegIdx)
  | sll (rd rs1 rs2 : RegIdx)
  | slt (rd rs1 rs2 : RegIdx)
  | sltu (rd rs1 rs2 : RegIdx)
  | xor (rd rs1 rs2 : RegIdx)
  | srl (rd rs1 rs2 : RegIdx)
  | sra (rd rs1 rs2 : RegIdx)
  | or (rd rs1 rs2 : RegIdx)
  | and (rd rs1 rs2 : RegIdx)
  | addi (rd rs1 : RegIdx) (imm : BitVec 12)
  | slti (rd rs1 : RegIdx) (imm : BitVec 12)
  | sltiu (rd rs1 : RegIdx) (imm : BitVec 12)
  | xori (rd rs1 : RegIdx) (imm : BitVec 12)
  | ori (rd rs1 : RegIdx) (imm : BitVec 12)
  | andi (rd rs1 : RegIdx) (imm : BitVec 12)
  | slli (rd rs1 : RegIdx) (shamt : BitVec 5)
  | srli (rd rs1 : RegIdx) (shamt : BitVec 5)
  | srai (rd rs1 : RegIdx) (shamt : BitVec 5)
  | lui (rd : RegIdx) (imm20 : BitVec 20)
  | auipc (rd : RegIdx) (imm20 : BitVec 20)
  | lw (rd rs1 : RegIdx) (imm : BitVec 12)
  | sw (rs1 rs2 : RegIdx) (imm : BitVec 12)
  | beq (rs1 rs2 : RegIdx) (offset : BitVec 13)
  | bne (rs1 rs2 : RegIdx) (offset : BitVec 13)
  | blt (rs1 rs2 : RegIdx) (offset : BitVec 13)
  | bge (rs1 rs2 : RegIdx) (offset : BitVec 13)
  | bltu (rs1 rs2 : RegIdx) (offset : BitVec 13)
  | bgeu (rs1 rs2 : RegIdx) (offset : BitVec 13)
  | jal (rd : RegIdx) (offset : BitVec 21)
  | jalr (rd rs1 : RegIdx) (imm : BitVec 12)
  | csrr (rd : RegIdx) (csr : CsrIdx)
  | csrw (csr : CsrIdx) (rs1 : RegIdx)
deriving DecidableEq, Repr

end Sys2Proof
end

