-- ==== Sys2Proof/WellFormed.lean ====
section
/-! DEFINITION. Which terms of `Instr` an AVS-33 word can stand for: every operand's width is in its type, so what
is left is that a branch's or JAL's byte offset is even (30_encoding.md R67, R69, R80). -/

namespace Sys2Proof

/-- "Bit 0 is always 0" (30_encoding.md R67 and R69) of a byte offset. -/
def evenOffset (offset : BitVec w) : Bool := !offset.getLsbD 0

/-- An instruction that some word encodes (30_encoding.md R63, R67, R69). -/
def Instr.wellFormed : Instr → Bool
  | .beq _ _ offset => evenOffset offset
  | .bne _ _ offset => evenOffset offset
  | .blt _ _ offset => evenOffset offset
  | .bge _ _ offset => evenOffset offset
  | .bltu _ _ offset => evenOffset offset
  | .bgeu _ _ offset => evenOffset offset
  | .jal _ offset => evenOffset offset
  | .add .. | .sub .. | .sll .. | .slt .. | .sltu .. | .xor .. | .srl .. | .sra .. | .or .. | .and .. => true
  | .addi .. | .slti .. | .sltiu .. | .xori .. | .ori .. | .andi .. | .slli .. | .srli .. | .srai .. => true
  | .lui .. | .auipc .. | .lw .. | .sw .. | .jalr .. | .csrr .. | .csrw .. => true

end Sys2Proof
end

