-- ==== Sys2Proof/Decode.lean ====
section
/-! DEFINITION. The decoder of 30_encoding.md R61 to R76, total over all words and over all byte strings, the
encoder written from the same formats, and the opcode table R63 as rows of mask and match. -/

namespace Sys2Proof

/-- The classes of illegal words (30_encoding.md R76): the name by which the decoder rejects one. -/
inductive IllegalClass where
  /-- inst[1:0] is not 11 -/
  | shortOrCompressed
  /-- inst[6:2] is no major opcode of R64 -/
  | unusedMajorOpcode
  /-- register ALU group with a funct7 that selects nothing -/
  | aluBadFunction
  /-- shift immediate with an inst[31:25] that selects nothing -/
  | shiftBadFunction
  /-- load of a width other than 32 bits -/
  | loadOtherWidth
  /-- store of a width other than 32 bits -/
  | storeOtherWidth
  /-- branch with funct3 010 or 011 -/
  | branchUnusedPredicate
  /-- register jump with a funct3 other than 000 -/
  | registerJumpBadFunction
  /-- CSR group, neither the read form nor the write form -/
  | csrOtherForm
deriving DecidableEq, Repr

/-! ## Fields (R61, R62) -/

/-- opcode = inst[6:0]. -/
def fieldOpcode (w : Word) : BitVec 7 := w.extractLsb' 0 7
/-- rd = inst[11:7]. -/
def fieldRd (w : Word) : RegIdx := w.extractLsb' 7 5
/-- funct3 = inst[14:12]. -/
def fieldFunct3 (w : Word) : BitVec 3 := w.extractLsb' 12 3
/-- rs1 = inst[19:15]. -/
def fieldRs1 (w : Word) : RegIdx := w.extractLsb' 15 5
/-- rs2 = inst[24:20]. -/
def fieldRs2 (w : Word) : RegIdx := w.extractLsb' 20 5
/-- funct7 = inst[31:25]. -/
def fieldFunct7 (w : Word) : BitVec 7 := w.extractLsb' 25 7
/-- shamt = inst[24:20] (R70). -/
def fieldShamt (w : Word) : BitVec 5 := w.extractLsb' 20 5
/-- csr = inst[31:20] (R71). -/
def fieldCsr (w : Word) : CsrIdx := w.extractLsb' 20 12
/-- The twelve bits of immI: inst[31:20] (R65). -/
def fieldImmI (w : Word) : BitVec 12 := w.extractLsb' 20 12
/-- The twelve bits of immS: inst[31:25] above inst[11:7] (R66). -/
def fieldImmS (w : Word) : BitVec 12 := w.extractLsb' 25 7 ++ w.extractLsb' 7 5
/-- The thirteen bits of immB: inst[31], inst[7], inst[30:25], inst[11:8], 0 (R67). -/
def fieldImmB (w : Word) : BitVec 13 :=
  w.extractLsb' 31 1 ++ w.extractLsb' 7 1 ++ w.extractLsb' 25 6 ++ w.extractLsb' 8 4 ++ 0#1
/-- The twenty bits of immU: inst[31:12] (R68). -/
def fieldImmU (w : Word) : BitVec 20 := w.extractLsb' 12 20
/-- The twenty-one bits of immJ: inst[31], inst[19:12], inst[20], inst[30:21], 0 (R69). -/
def fieldImmJ (w : Word) : BitVec 21 :=
  w.extractLsb' 31 1 ++ w.extractLsb' 12 8 ++ w.extractLsb' 20 1 ++ w.extractLsb' 21 10 ++ 0#1

/-! ## Major opcodes (R63, R64) -/

def opAluReg : BitVec 7 := 0b0110011#7
def opAluImm : BitVec 7 := 0b0010011#7
def opLui : BitVec 7 := 0b0110111#7
def opAuipc : BitVec 7 := 0b0010111#7
def opLoad : BitVec 7 := 0b0000011#7
def opStore : BitVec 7 := 0b0100011#7
def opBranch : BitVec 7 := 0b1100011#7
def opJal : BitVec 7 := 0b1101111#7
def opJalr : BitVec 7 := 0b1100111#7
def opSystem : BitVec 7 := 0b1110011#7

/-! ## The decode algorithm (R73) -/

/-- lookupR of R73: rows 1 to 10. -/
def decodeAluReg (w : Word) : Except IllegalClass Instr :=
  let rd := fieldRd w
  let rs1 := fieldRs1 w
  let rs2 := fieldRs2 w
  if fieldFunct7 w = 0b0000000#7 then
    match fieldFunct3 w with
    | 0b000#3 => .ok (.add rd rs1 rs2)
    | 0b001#3 => .ok (.sll rd rs1 rs2)
    | 0b010#3 => .ok (.slt rd rs1 rs2)
    | 0b011#3 => .ok (.sltu rd rs1 rs2)
    | 0b100#3 => .ok (.xor rd rs1 rs2)
    | 0b101#3 => .ok (.srl rd rs1 rs2)
    | 0b110#3 => .ok (.or rd rs1 rs2)
    | 0b111#3 => .ok (.and rd rs1 rs2)
  else if fieldFunct7 w = 0b0100000#7 ∧ fieldFunct3 w = 0b000#3 then .ok (.sub rd rs1 rs2)
  else if fieldFunct7 w = 0b0100000#7 ∧ fieldFunct3 w = 0b101#3 then .ok (.sra rd rs1 rs2)
  else .error .aluBadFunction

/-- lookupI and lookupShift of R73: rows 11 to 19. -/
def decodeAluImm (w : Word) : Except IllegalClass Instr :=
  let rd := fieldRd w
  let rs1 := fieldRs1 w
  match fieldFunct3 w with
  | 0b000#3 => .ok (.addi rd rs1 (fieldImmI w))
  | 0b010#3 => .ok (.slti rd rs1 (fieldImmI w))
  | 0b011#3 => .ok (.sltiu rd rs1 (fieldImmI w))
  | 0b100#3 => .ok (.xori rd rs1 (fieldImmI w))
  | 0b110#3 => .ok (.ori rd rs1 (fieldImmI w))
  | 0b111#3 => .ok (.andi rd rs1 (fieldImmI w))
  | 0b001#3 => if fieldFunct7 w = 0b0000000#7 then .ok (.slli rd rs1 (fieldShamt w)) else .error .shiftBadFunction
  | 0b101#3 =>
    if fieldFunct7 w = 0b0000000#7 then .ok (.srli rd rs1 (fieldShamt w))
    else if fieldFunct7 w = 0b0100000#7 then .ok (.srai rd rs1 (fieldShamt w))
    else .error .shiftBadFunction

/-- lookupB of R73: rows 24 to 29. -/
def decodeBranch (w : Word) : Except IllegalClass Instr :=
  let rs1 := fieldRs1 w
  let rs2 := fieldRs2 w
  match fieldFunct3 w with
  | 0b000#3 => .ok (.beq rs1 rs2 (fieldImmB w))
  | 0b001#3 => .ok (.bne rs1 rs2 (fieldImmB w))
  | 0b100#3 => .ok (.blt rs1 rs2 (fieldImmB w))
  | 0b101#3 => .ok (.bge rs1 rs2 (fieldImmB w))
  | 0b110#3 => .ok (.bltu rs1 rs2 (fieldImmB w))
  | 0b111#3 => .ok (.bgeu rs1 rs2 (fieldImmB w))
  | _ => .error .branchUnusedPredicate

/-- The CSR group of R73: rows 32 and 33. -/
def decodeSystem (w : Word) : Except IllegalClass Instr :=
  if fieldFunct3 w = 0b010#3 ∧ fieldRs1 w = 0#5 then .ok (.csrr (fieldRd w) (fieldCsr w))
  else if fieldFunct3 w = 0b001#3 ∧ fieldRd w = 0#5 then .ok (.csrw (fieldCsr w) (fieldRs1 w))
  else .error .csrOtherForm

/-- LW, the one load (R73). -/
def decodeLoad (w : Word) : Except IllegalClass Instr :=
  if fieldFunct3 w = 0b010#3 then .ok (.lw (fieldRd w) (fieldRs1 w) (fieldImmI w)) else .error .loadOtherWidth

/-- SW, the one store (R73). -/
def decodeStore (w : Word) : Except IllegalClass Instr :=
  if fieldFunct3 w = 0b010#3 then .ok (.sw (fieldRs1 w) (fieldRs2 w) (fieldImmS w)) else .error .storeOtherWidth

/-- JALR (R73). -/
def decodeJalr (w : Word) : Except IllegalClass Instr :=
  if fieldFunct3 w = 0b000#3 then .ok (.jalr (fieldRd w) (fieldRs1 w) (fieldImmI w))
  else .error .registerJumpBadFunction

/-- `decode` of R72 and R73: a pure total function of the word. R75: a word that is no row is illegal, here by
the name of its class (R76). -/
def decode (w : Word) : Except IllegalClass Instr :=
  if w.extractLsb' 0 2 ≠ 0b11#2 then .error .shortOrCompressed
  else if fieldOpcode w = opAluReg then decodeAluReg w
  else if fieldOpcode w = opAluImm then decodeAluImm w
  else if fieldOpcode w = opLui then .ok (.lui (fieldRd w) (fieldImmU w))
  else if fieldOpcode w = opAuipc then .ok (.auipc (fieldRd w) (fieldImmU w))
  else if fieldOpcode w = opLoad then decodeLoad w
  else if fieldOpcode w = opStore then decodeStore w
  else if fieldOpcode w = opBranch then decodeBranch w
  else if fieldOpcode w = opJal then .ok (.jal (fieldRd w) (fieldImmJ w))
  else if fieldOpcode w = opJalr then decodeJalr w
  else if fieldOpcode w = opSystem then decodeSystem w
  else .error .unusedMajorOpcode

/-! ## The encoder (R61, R63) -/

/-- Format R. -/
def encodeR (funct7 : BitVec 7) (rs2 rs1 : RegIdx) (funct3 : BitVec 3) (rd : RegIdx) (op : BitVec 7) : Word :=
  funct7 ++ rs2 ++ rs1 ++ funct3 ++ rd ++ op

/-- Format I, and its CSR variant. -/
def encodeI (imm : BitVec 12) (rs1 : RegIdx) (funct3 : BitVec 3) (rd : RegIdx) (op : BitVec 7) : Word :=
  imm ++ rs1 ++ funct3 ++ rd ++ op

/-- Format S. -/
def encodeS (imm : BitVec 12) (rs2 rs1 : RegIdx) (funct3 : BitVec 3) (op : BitVec 7) : Word :=
  imm.extractLsb' 5 7 ++ rs2 ++ rs1 ++ funct3 ++ imm.extractLsb' 0 5 ++ op

/-- Format B. -/
def encodeB (offset : BitVec 13) (rs2 rs1 : RegIdx) (funct3 : BitVec 3) (op : BitVec 7) : Word :=
  offset.extractLsb' 12 1 ++ offset.extractLsb' 5 6 ++ rs2 ++ rs1 ++ funct3 ++ offset.extractLsb' 1 4 ++
    offset.extractLsb' 11 1 ++ op

/-- Format U. -/
def encodeU (imm20 : BitVec 20) (rd : RegIdx) (op : BitVec 7) : Word :=
  imm20 ++ rd ++ op

/-- Format J. -/
def encodeJ (offset : BitVec 21) (rd : RegIdx) (op : BitVec 7) : Word :=
  offset.extractLsb' 20 1 ++ offset.extractLsb' 1 10 ++ offset.extractLsb' 11 1 ++ offset.extractLsb' 12 8 ++ rd ++ op

/-- The word of a well-formed instruction (R61, R63). -/
def encode : Instr → Word
  | .add rd rs1 rs2 => encodeR 0b0000000#7 rs2 rs1 0b000#3 rd opAluReg
  | .sub rd rs1 rs2 => encodeR 0b0100000#7 rs2 rs1 0b000#3 rd opAluReg
  | .sll rd rs1 rs2 => encodeR 0b0000000#7 rs2 rs1 0b001#3 rd opAluReg
  | .slt rd rs1 rs2 => encodeR 0b0000000#7 rs2 rs1 0b010#3 rd opAluReg
  | .sltu rd rs1 rs2 => encodeR 0b0000000#7 rs2 rs1 0b011#3 rd opAluReg
  | .xor rd rs1 rs2 => encodeR 0b0000000#7 rs2 rs1 0b100#3 rd opAluReg
  | .srl rd rs1 rs2 => encodeR 0b0000000#7 rs2 rs1 0b101#3 rd opAluReg
  | .sra rd rs1 rs2 => encodeR 0b0100000#7 rs2 rs1 0b101#3 rd opAluReg
  | .or rd rs1 rs2 => encodeR 0b0000000#7 rs2 rs1 0b110#3 rd opAluReg
  | .and rd rs1 rs2 => encodeR 0b0000000#7 rs2 rs1 0b111#3 rd opAluReg
  | .addi rd rs1 imm => encodeI imm rs1 0b000#3 rd opAluImm
  | .slti rd rs1 imm => encodeI imm rs1 0b010#3 rd opAluImm
  | .sltiu rd rs1 imm => encodeI imm rs1 0b011#3 rd opAluImm
  | .xori rd rs1 imm => encodeI imm rs1 0b100#3 rd opAluImm
  | .ori rd rs1 imm => encodeI imm rs1 0b110#3 rd opAluImm
  | .andi rd rs1 imm => encodeI imm rs1 0b111#3 rd opAluImm
  | .slli rd rs1 shamt => encodeR 0b0000000#7 shamt rs1 0b001#3 rd opAluImm
  | .srli rd rs1 shamt => encodeR 0b0000000#7 shamt rs1 0b101#3 rd opAluImm
  | .srai rd rs1 shamt => encodeR 0b0100000#7 shamt rs1 0b101#3 rd opAluImm
  | .lui rd imm20 => encodeU imm20 rd opLui
  | .auipc rd imm20 => encodeU imm20 rd opAuipc
  | .lw rd rs1 imm => encodeI imm rs1 0b010#3 rd opLoad
  | .sw rs1 rs2 imm => encodeS imm rs2 rs1 0b010#3 opStore
  | .beq rs1 rs2 offset => encodeB offset rs2 rs1 0b000#3 opBranch
  | .bne rs1 rs2 offset => encodeB offset rs2 rs1 0b001#3 opBranch
  | .blt rs1 rs2 offset => encodeB offset rs2 rs1 0b100#3 opBranch
  | .bge rs1 rs2 offset => encodeB offset rs2 rs1 0b101#3 opBranch
  | .bltu rs1 rs2 offset => encodeB offset rs2 rs1 0b110#3 opBranch
  | .bgeu rs1 rs2 offset => encodeB offset rs2 rs1 0b111#3 opBranch
  | .jal rd offset => encodeJ offset rd opJal
  | .jalr rd rs1 imm => encodeI imm rs1 0b000#3 rd opJalr
  | .csrr rd csr => encodeI csr 0#5 0b010#3 rd opSystem
  | .csrw csr rs1 => encodeI csr rs1 0b001#3 0#5 opSystem

/-! ## The opcode table as rows (R63, opcode_table.json) -/

/-- One row of the table: a word `w` is the row's instruction iff `w &&& mask = fixed`. -/
structure TableRow where
  mnemonic : String
  fixed : Word
  mask : Word
deriving DecidableEq, Repr

/-- The table's row of an instruction (R63; match and mask of R130 to R192). -/
def Instr.row : Instr → TableRow
  | .add .. => ⟨"ADD", 0x00000033#32, 0xFE00707F#32⟩
  | .sub .. => ⟨"SUB", 0x40000033#32, 0xFE00707F#32⟩
  | .sll .. => ⟨"SLL", 0x00001033#32, 0xFE00707F#32⟩
  | .slt .. => ⟨"SLT", 0x00002033#32, 0xFE00707F#32⟩
  | .sltu .. => ⟨"SLTU", 0x00003033#32, 0xFE00707F#32⟩
  | .xor .. => ⟨"XOR", 0x00004033#32, 0xFE00707F#32⟩
  | .srl .. => ⟨"SRL", 0x00005033#32, 0xFE00707F#32⟩
  | .sra .. => ⟨"SRA", 0x40005033#32, 0xFE00707F#32⟩
  | .or .. => ⟨"OR", 0x00006033#32, 0xFE00707F#32⟩
  | .and .. => ⟨"AND", 0x00007033#32, 0xFE00707F#32⟩
  | .addi .. => ⟨"ADDI", 0x00000013#32, 0x0000707F#32⟩
  | .slti .. => ⟨"SLTI", 0x00002013#32, 0x0000707F#32⟩
  | .sltiu .. => ⟨"SLTIU", 0x00003013#32, 0x0000707F#32⟩
  | .xori .. => ⟨"XORI", 0x00004013#32, 0x0000707F#32⟩
  | .ori .. => ⟨"ORI", 0x00006013#32, 0x0000707F#32⟩
  | .andi .. => ⟨"ANDI", 0x00007013#32, 0x0000707F#32⟩
  | .slli .. => ⟨"SLLI", 0x00001013#32, 0xFE00707F#32⟩
  | .srli .. => ⟨"SRLI", 0x00005013#32, 0xFE00707F#32⟩
  | .srai .. => ⟨"SRAI", 0x40005013#32, 0xFE00707F#32⟩
  | .lui .. => ⟨"LUI", 0x00000037#32, 0x0000007F#32⟩
  | .auipc .. => ⟨"AUIPC", 0x00000017#32, 0x0000007F#32⟩
  | .lw .. => ⟨"LW", 0x00002003#32, 0x0000707F#32⟩
  | .sw .. => ⟨"SW", 0x00002023#32, 0x0000707F#32⟩
  | .beq .. => ⟨"BEQ", 0x00000063#32, 0x0000707F#32⟩
  | .bne .. => ⟨"BNE", 0x00001063#32, 0x0000707F#32⟩
  | .blt .. => ⟨"BLT", 0x00004063#32, 0x0000707F#32⟩
  | .bge .. => ⟨"BGE", 0x00005063#32, 0x0000707F#32⟩
  | .bltu .. => ⟨"BLTU", 0x00006063#32, 0x0000707F#32⟩
  | .bgeu .. => ⟨"BGEU", 0x00007063#32, 0x0000707F#32⟩
  | .jal .. => ⟨"JAL", 0x0000006F#32, 0x0000007F#32⟩
  | .jalr .. => ⟨"JALR", 0x00000067#32, 0x0000707F#32⟩
  | .csrr .. => ⟨"CSRR", 0x00002073#32, 0x000FF07F#32⟩
  | .csrw .. => ⟨"CSRW", 0x00001073#32, 0x00007FFF#32⟩

/-- One instruction of each row, in the table's order. -/
def tableInstrs : List Instr :=
  [.add 0 0 0, .sub 0 0 0, .sll 0 0 0, .slt 0 0 0, .sltu 0 0 0, .xor 0 0 0, .srl 0 0 0, .sra 0 0 0, .or 0 0 0,
    .and 0 0 0, .addi 0 0 0, .slti 0 0 0, .sltiu 0 0 0, .xori 0 0 0, .ori 0 0 0, .andi 0 0 0] ++
  [.slli 0 0 0, .srli 0 0 0, .srai 0 0 0, .lui 0 0, .auipc 0 0, .lw 0 0 0, .sw 0 0 0, .beq 0 0 0, .bne 0 0 0,
    .blt 0 0 0, .bge 0 0 0, .bltu 0 0 0, .bgeu 0 0 0, .jal 0 0, .jalr 0 0 0, .csrr 0 0, .csrw 0 0]

/-- The 33 rows of opcode_table.json, in its order. -/
def opcodeTable : List TableRow := tableInstrs.map Instr.row

/-- A word matches a row (30_encoding.md, opening paragraph). -/
def TableRow.holds (r : TableRow) (w : Word) : Bool := (w &&& r.mask) == r.fixed

/-! ## Bytes (R60, 20_memory.md R42) -/

/-- Why a byte string yields no instruction. -/
inductive DecodeError where
  /-- fewer than the four bytes of an instruction (R60) -/
  | truncated
  /-- four bytes that are no AVS-33 word (R75) -/
  | illegal (c : IllegalClass)
deriving DecidableEq, Repr

/-- The word of four bytes, lowest address first (20_memory.md R42: little-endian). -/
def wordOfBytes (b0 b1 b2 b3 : Byte) : Word := b3 ++ b2 ++ b1 ++ b0

/-- The byte of a word at the given distance from its address (20_memory.md R42). -/
def byteOfWord (v : Word) (k : Nat) : Byte := v.extractLsb' (8 * k) 8

/-- Decode the instruction at the head of any byte string, and give back the rest. -/
def decodeBytes : List Byte → Except DecodeError (Instr × List Byte)
  | b0 :: b1 :: b2 :: b3 :: rest =>
    match decode (wordOfBytes b0 b1 b2 b3) with
    | .ok i => .ok (i, rest)
    | .error c => .error (.illegal c)
  | _ => .error .truncated

/-- The bytes of an instruction in memory order. -/
def encodeBytes (i : Instr) : List Byte :=
  let w := encode i
  [byteOfWord w 0, byteOfWord w 1, byteOfWord w 2, byteOfWord w 3]

/-- The low `nbits` bits of `w` as one instruction word, every higher bit 0. -/
def tableWord (nbits w : Nat) : Word := BitVec.ofNat 32 (w % 2 ^ nbits)

/-- The instruction the decoder reads from a table row's bits (bit 0 the least significant), laid out as bytes in
memory order. -/
def decodeTableWord (nbits w : Nat) : Option Instr :=
  let v := tableWord nbits w
  match decodeBytes [byteOfWord v 0, byteOfWord v 1, byteOfWord v 2, byteOfWord v 3] with
  | .ok (i, _) => some i
  | .error _ => none

end Sys2Proof
end

