-- ==== Sys2Proof/Machine/State.lean ====
section
/-! DEFINITION. Everything the spec gives the machine (10_state.md R10), as plain data; the reasons a step stops; and
the machine right after reset (R35). -/

namespace Sys2Proof.Machine

/-- The two states of the program-counter sequencer (10_state.md R18). -/
inductive RunState where
  | inReset
  | running
deriving DecidableEq, Repr

/-- The memory's contents: (byte address, byte) pairs in canonical form, see `Memory.wf`. An address that is not
listed reads `Config.unlistedByte`. -/
abbrev Memory := List Host.Cell

/-- Every multiple of 4 from `first` to `last`, both included: a piece of MEM_VALID (20_memory.md R40). -/
structure AddressRange where
  first : Word
  last : Word
deriving DecidableEq, Repr

/-- The state (10_state.md R10). There is no other: no flags (R19), no mode (60_exceptions.md R212), no trap or
pending-interrupt register (R200, R205), no reservation (20_memory.md R51). -/
structure State where
  /-- the program counter (10_state.md R15) -/
  pc : Word
  /-- Reset or Running (R18) -/
  runState : RunState
  /-- the general registers x0 to x31 (R11); all access goes through `State.readReg` and `State.writeReg` (R12) -/
  regs : Vector Word 32
  /-- CSR `cycle` (R22) -/
  csrCycle : Word
  /-- CSR `instret` (R23) -/
  csrInstret : Word
  /-- the pending host messages, oldest first (R21, R33) -/
  hostQueue : List Word
  /-- the contents of memory (R32, 20_memory.md R40) -/
  mem : Memory
  /-- MEM_VALID, the domain of the memory (20_memory.md R40; OPEN, log entry 3); nothing the core does changes it -/
  memValid : List AddressRange
deriving DecidableEq, Repr

/-- The Fault outcome of 60_exceptions.md R203: a collaborator signalled failure. Nothing changes, and the machine
stops. SAFE: the hardware is stuck there too (R203), see `cycle` for what it shows. -/
inductive Fault where
  /-- raised by the fetch (S1): pc misaligned or outside MEM_VALID. Safe. -/
  | fetchFailure
  /-- raised by LW (S5): address misaligned or outside MEM_VALID. Safe. -/
  | loadFailure
  /-- raised by SW (S5): address misaligned or outside MEM_VALID. Safe. -/
  | storeFailure
  /-- raised by CSRR and CSRW (S3, S6): unimplemented index, or a write to a read-only CSR. Safe. -/
  | csrFailure
deriving DecidableEq, Repr

/-- The refuse outcome of 60_exceptions.md R204: an input the spec gives no meaning. -/
inductive Refusal where
  /-- raised by no arm of this model: every instruction has its meaning. Safe. -/
  | notModelled (mnemonic : String)
  /-- raised by `step` in state Reset (40_step_and_decode.md R106). Safe. -/
  | stepBeforeReset
  /-- raised by `step` on a word that is no AVS-33 instruction (60_exceptions.md R202), with its class. Safe. -/
  | illegalWord (c : IllegalClass) (w : Word)
  /-- raised by `runRecord` on a record that is not well-formed (40_step_and_decode.md R106). Safe. -/
  | malformedRecord
  /-- raised by `hostLoad` in Running (60_exceptions.md R215: such a host has no move). Safe. -/
  | hostLoadWhileRunning
  /-- raised by `hostLoad` at an address that is misaligned or outside MEM_VALID (log entry 11). Safe. -/
  | hostLoadBadAddress
  /-- raised by `cycle` when the host polls in the cycle of a step or a reset (60_exceptions.md R215, log entry 11). Safe. -/
  | pollDuringStep
  /-- raised by `hostMove` and `cycle` when the host polls in state Reset (70_reset_and_hazards.md R231). Safe. -/
  | pollBeforeReset
deriving DecidableEq, Repr

/-- MEM_VALID as every multiple of 4 (log entry 3). -/
def wholeAddressSpace : List AddressRange := [⟨0x00000000#32, 0xFFFFFFFC#32⟩]

/-- The core at power-on, in state Reset (70_reset_and_hazards.md R232). The unspecified values are those of log
entries 2, 4 and 10. -/
def State.powerOn : State where
  pc := Config.unspecifiedPowerOn
  runState := .inReset
  regs := (Vector.replicate 32 Config.unspecifiedRegister).set 0 0#32
  csrCycle := Config.unspecifiedPowerOn
  csrInstret := Config.unspecifiedPowerOn
  hostQueue := []
  mem := []
  memValid := wholeAddressSpace

/-- The machine right after the first `reset(START_ADDRESS)` (10_state.md R35). -/
def State.reset : State where
  pc := Config.startAddress
  runState := .running
  regs := (Vector.replicate 32 Config.unspecifiedRegister).set 0 0#32
  csrCycle := 0#32
  csrInstret := 0#32
  hostQueue := []
  mem := []
  memValid := wholeAddressSpace

end Sys2Proof.Machine
end

