-- ==== Sys2Proof/Machine/Ops.lean ====
section
/-! DEFINITION. The named operations over memory, registers, CSRs and the pc (the interfaces of 10_state.md R14, R20
and 20_memory.md R41), and the ends every step shares (40_step_and_decode.md R90, S7 and S8). The machine has no
exceptions and no return from one (60_exceptions.md R200, R207, R208), so there is no operation for either. -/

namespace Sys2Proof.Machine

/-- The three outcomes of a step. -/
abbrev Result := Host.Outcome State Fault Refusal

/-- Go on with a collaborator's answer, or end the step in its failure (60_exceptions.md R203). -/
def orFault (e : Except Fault α) (k : α → Result) : Result :=
  match e with
  | .ok a => k a
  | .error f => .fault f

/-! ## Memory (20_memory.md) -/

/-- The canonical form: addresses strictly rising, every address a 32-bit byte address (10_state.md R32), and no
entry equal to what an unlisted address reads as. -/
abbrev Memory.wf (m : Memory) : Prop :=
  m.Pairwise (fun c d => c.1 < d.1) ∧ ∀ c ∈ m, c.1 < 2 ^ 32 ∧ c.2 ≠ Config.unlistedByte

/-- The byte at an address. -/
def Memory.get : Memory → Nat → Byte
  | [], _ => Config.unlistedByte
  | (b, v) :: rest, a => if a = b then v else Memory.get rest a

/-- `c` before `rest`, left out when its byte is what an unlisted address reads as. -/
def Memory.cons (c : Host.Cell) (rest : Memory) : Memory :=
  if c.2 = Config.unlistedByte then rest else c :: rest

/-- Write one byte, keeping the canonical form. -/
def Memory.set : Memory → Nat → Byte → Memory
  | [], a, v => Memory.cons (a, v) []
  | (b, u) :: rest, a, v =>
    if a < b then Memory.cons (a, v) ((b, u) :: rest)
    else if a = b then Memory.cons (a, v) rest
    else (b, u) :: Memory.set rest a v

/-- `mem[a]`: bits 7:0 at byte address `a`, bits 15:8 at `a + 1`, and so on (20_memory.md R42). -/
def Memory.getWord (m : Memory) (a : Word) : Word :=
  wordOfBytes (m.get a.toNat) (m.get (a + 1#32).toNat) (m.get (a + 2#32).toNat) (m.get (a + 3#32).toNat)

/-- `mem[a] <- v` (20_memory.md R42). -/
def Memory.setWord (m : Memory) (a v : Word) : Memory :=
  (((m.set a.toNat (byteOfWord v 0)).set (a + 1#32).toNat (byteOfWord v 1)).set (a + 2#32).toNat (byteOfWord v 2)).set
    (a + 3#32).toNat (byteOfWord v 3)

/-- The byte of memory at an address. -/
def State.readByte (s : State) (a : Word) : Byte := s.mem.get a.toNat

/-- `a[1:0] = 0` (20_memory.md R43). -/
def aligned (a : Word) : Bool := a.extractLsb' 0 2 == 0#2

/-- The address lies between the range's ends. -/
def AddressRange.contains (r : AddressRange) (a : Word) : Bool := r.first.ule a && a.ule r.last

/-- The memory accepts an access at `a`: a multiple of 4 in MEM_VALID (20_memory.md R40, R43, R46). -/
def State.accessible (s : State) (a : Word) : Bool := aligned a && s.memValid.any (fun r => r.contains a)

/-- `Fetch(pc)` (20_memory.md R41). -/
def State.fetch (s : State) : Except Fault Word :=
  if s.accessible s.pc then .ok (s.mem.getWord s.pc) else .error .fetchFailure

/-- `MemRead(a, 4)` (20_memory.md R41). -/
def State.memRead (s : State) (a : Word) : Except Fault Word :=
  if s.accessible a then .ok (s.mem.getWord a) else .error .loadFailure

/-- The state with the word `v` at `a`. -/
def State.storeWord (s : State) (a v : Word) : State := { s with mem := s.mem.setWord a v }

/-- `MemWrite(a, 4, v)` (20_memory.md R41). -/
def State.memWrite (s : State) (a v : Word) : Except Fault State :=
  if s.accessible a then .ok (s.storeWord a v) else .error .storeFailure

/-! ## General registers (10_state.md R11 to R14) -/

/-- `x[i]`: "a read of index 0 returns 0x00000000" (R12). -/
def State.readReg (s : State) (i : RegIdx) : Word :=
  if i = 0#5 then 0#32 else s.regs[i.toNat]

/-- `x[i] <- v`: "a write to index 0 is discarded" (R12). -/
def State.writeReg (s : State) (i : RegIdx) (v : Word) : State :=
  { s with regs := if i = 0#5 then s.regs else s.regs.set i.toNat v }

/-! ## CSRs (10_state.md R20 to R24) -/

/-- `csr[c]`, none when the index is unimplemented (R24). No read has a side effect (R21 to R23). -/
def State.readCsr (s : State) (c : CsrIdx) : Except Fault Word :=
  if c = Config.csrTohost then .ok Config.tohostReadValue
  else if c = Config.csrCycle then .ok s.csrCycle
  else if c = Config.csrInstret then .ok s.csrInstret
  else .error .csrFailure

/-- The state with one more message at the tail of `host_queue` (R21). -/
def State.pushHost (s : State) (v : Word) : State := { s with hostQueue := s.hostQueue ++ [v] }

/-- `csr[c] <- v`: only `tohost` can be written (R21 to R24). -/
def State.writeCsr (s : State) (c : CsrIdx) (v : Word) : Except Fault State :=
  if c = Config.csrTohost then .ok (s.pushHost v) else .error .csrFailure

/-- `onInstructionRetired()` (R22, R23; 40_step_and_decode.md S7): both counters advance modulo 2^32. -/
def State.retire (s : State) : State :=
  { s with csrCycle := s.csrCycle + 1#32, csrInstret := s.csrInstret + 1#32 }

/-! ## The pc (10_state.md R15 to R17) -/

/-- `pc <- v`, with no mask and no check (40_step_and_decode.md R105). -/
def State.setPc (s : State) (v : Word) : State := { s with pc := v }

/-- `pc + 4#32`, the fall-through address and the link value (10_state.md R16, 43_control_transfer.md R170). -/
def State.nextPc (s : State) : Word := s.pc + 4#32

/-- S7 and S8 of a step: retire, then set the pc (40_step_and_decode.md R90). -/
def State.complete (s : State) (next : Word) : State := s.retire.setPc next

/-- The end of an instruction whose result goes to a register (S6 to S8). -/
def finishWrite (s : State) (rd : RegIdx) (v next : Word) : Result :=
  .next ((s.writeReg rd v).complete next)

/-- The end of an instruction that writes no register. -/
def finish (s : State) (next : Word) : Result := .next (s.complete next)

end Sys2Proof.Machine
end

