-- ==== Sys2Proof/Machine/Flags.lean ====
section
/-! DEFINITION. The core has no status flags (10_state.md R19): a comparison's outcome is a Word 1 or 0 in a register
(41_alu.md R126, R127) or the taken decision of a branch (43_control_transfer.md R173). Both are here. -/

namespace Sys2Proof.Machine

/-- `a <s b`: all 32 bits, bit 31 the sign (41_alu.md R126). -/
def lessSigned (a b : Word) : Bool := a.slt b

/-- `a <u b` (41_alu.md R127). -/
def lessUnsigned (a b : Word) : Bool := a.ult b

/-- A comparison's outcome as a Word (10_state.md R19). -/
def flagWord (c : Bool) : Word := if c then 1#32 else 0#32

/-- The branch predicates (10_state.md R28). -/
inductive BranchOp where
  | equal
  | notEqual
  | lessSigned
  | lessUnsigned
  | greaterOrEqualSigned
  | greaterOrEqualUnsigned
  | alwaysTaken
  | neverTaken
deriving DecidableEq, Repr

/-- `Pred(op, a, b)` (43_control_transfer.md R173). -/
def pred (op : BranchOp) (a b : Word) : Bool :=
  match op with
  | .equal => a == b
  | .notEqual => a != b
  | .lessSigned => Machine.lessSigned a b
  | .lessUnsigned => Machine.lessUnsigned a b
  | .greaterOrEqualSigned => !Machine.lessSigned a b
  | .greaterOrEqualUnsigned => !Machine.lessUnsigned a b
  | .alwaysTaken => true
  | .neverTaken => false

end Sys2Proof.Machine
end

