-- ==== Sys2Proof/Machine/Operands.lean ====
section
/-! DEFINITION. The operand forms: the immediates as Words (30_encoding.md R65 to R70), the one addressing mode
(42_load_store.md R160) and the transfer targets (43_control_transfer.md R170). -/

namespace Sys2Proof.Machine

/-- immI and immS: the 12-bit field sign-extended (R65, R66). -/
def immShort (imm : BitVec 12) : Word := imm.signExtend 32

/-- immB: the 13-bit byte offset sign-extended (R67). -/
def immB (offset : BitVec 13) : Word := offset.signExtend 32

/-- immU: the 20-bit field above twelve zeros (R68). -/
def immU (imm20 : BitVec 20) : Word := imm20 ++ 0#12

/-- immJ: the 21-bit byte offset sign-extended (R69). -/
def immJ (offset : BitVec 21) : Word := offset.signExtend 32

/-- immShamt: the 5-bit amount zero-extended (R70). -/
def immShamt (shamt : BitVec 5) : Word := shamt.setWidth 32

/-- The effective address `x[rs1] + immediate` modulo 2^32 (R160). -/
def State.effectiveAddress (s : State) (rs1 : RegIdx) (imm : BitVec 12) : Word :=
  s.readReg rs1 + immShort imm

/-- The target of a branch or JAL: `pc + immediate` modulo 2^32 (R170). -/
def State.relativeTarget (s : State) (imm : Word) : Word := s.pc + imm

/-- The target of JALR: `x[rs1] + immediate` modulo 2^32, no bit cleared (R170, R181). -/
def State.registerTarget (s : State) (rs1 : RegIdx) (imm : BitVec 12) : Word :=
  s.readReg rs1 + immShort imm

end Sys2Proof.Machine
end

