-- ==== Sys2Proof/Machine/Alu.lean ====
section
/-! DEFINITION. The ALU function (41_alu.md R120 to R128) and the twenty instructions of kind Alu (R129 to R150). -/

namespace Sys2Proof.Machine

/-- The ALU operations (10_state.md R27). -/
inductive AluOp where
  | add
  | sub
  | and
  | or
  | xor
  | shiftLeftLogical
  | shiftRightLogical
  | shiftRightArithmetic
  | setLessThanSigned
  | setLessThanUnsigned
deriving DecidableEq, Repr

/-- A shift amount: `b mod 32 = b[4:0]` (41_alu.md R123). -/
def shiftAmount (b : Word) : Nat := (b.extractLsb' 0 5).toNat

/-- `ALU(op, a, b)` (41_alu.md R120): total, no flags, no carry, no failure. -/
def alu (op : AluOp) (a b : Word) : Word :=
  match op with
  | .add => a + b
  | .sub => a - b
  | .and => a &&& b
  | .or => a ||| b
  | .xor => a ^^^ b
  | .shiftLeftLogical => a <<< shiftAmount b
  | .shiftRightLogical => a >>> shiftAmount b
  | .shiftRightArithmetic => a.sshiftRight (shiftAmount b)
  | .setLessThanSigned => flagWord (lessSigned a b)
  | .setLessThanUnsigned => flagWord (lessUnsigned a b)

/-- `x[rd] <- ALU(op, x[rs1], x[rs2])`, `pc <- pc + 4` (41_alu.md R129). -/
def aluRegister (op : AluOp) (rd rs1 rs2 : RegIdx) (s : State) : Result :=
  finishWrite s rd (alu op (s.readReg rs1) (s.readReg rs2)) s.nextPc

/-- `x[rd] <- ALU(op, x[rs1], imm)`, `pc <- pc + 4` (41_alu.md R129). -/
def aluImmediate (op : AluOp) (rd rs1 : RegIdx) (imm : Word) (s : State) : Result :=
  finishWrite s rd (alu op (s.readReg rs1) imm) s.nextPc

/-- ADD (R130). -/
def execAdd (rd rs1 rs2 : RegIdx) (s : State) : Result := aluRegister .add rd rs1 rs2 s
/-- SUB (R131). -/
def execSub (rd rs1 rs2 : RegIdx) (s : State) : Result := aluRegister .sub rd rs1 rs2 s
/-- SLL (R132). -/
def execSll (rd rs1 rs2 : RegIdx) (s : State) : Result := aluRegister .shiftLeftLogical rd rs1 rs2 s
/-- SLT (R133). -/
def execSlt (rd rs1 rs2 : RegIdx) (s : State) : Result := aluRegister .setLessThanSigned rd rs1 rs2 s
/-- SLTU (R134). -/
def execSltu (rd rs1 rs2 : RegIdx) (s : State) : Result := aluRegister .setLessThanUnsigned rd rs1 rs2 s
/-- XOR (R135). -/
def execXor (rd rs1 rs2 : RegIdx) (s : State) : Result := aluRegister .xor rd rs1 rs2 s
/-- SRL (R136). -/
def execSrl (rd rs1 rs2 : RegIdx) (s : State) : Result := aluRegister .shiftRightLogical rd rs1 rs2 s
/-- SRA (R137). -/
def execSra (rd rs1 rs2 : RegIdx) (s : State) : Result := aluRegister .shiftRightArithmetic rd rs1 rs2 s
/-- OR (R138). -/
def execOr (rd rs1 rs2 : RegIdx) (s : State) : Result := aluRegister .or rd rs1 rs2 s
/-- AND (R139). -/
def execAnd (rd rs1 rs2 : RegIdx) (s : State) : Result := aluRegister .and rd rs1 rs2 s

/-- ADDI (R140). -/
def execAddi (rd rs1 : RegIdx) (imm : BitVec 12) (s : State) : Result := aluImmediate .add rd rs1 (immShort imm) s
/-- SLTI (R141). -/
def execSlti (rd rs1 : RegIdx) (imm : BitVec 12) (s : State) : Result :=
  aluImmediate .setLessThanSigned rd rs1 (immShort imm) s
/-- SLTIU (R142): the immediate is sign-extended, then compared unsigned. -/
def execSltiu (rd rs1 : RegIdx) (imm : BitVec 12) (s : State) : Result :=
  aluImmediate .setLessThanUnsigned rd rs1 (immShort imm) s
/-- XORI (R143). -/
def execXori (rd rs1 : RegIdx) (imm : BitVec 12) (s : State) : Result := aluImmediate .xor rd rs1 (immShort imm) s
/-- ORI (R144). -/
def execOri (rd rs1 : RegIdx) (imm : BitVec 12) (s : State) : Result := aluImmediate .or rd rs1 (immShort imm) s
/-- ANDI (R145). -/
def execAndi (rd rs1 : RegIdx) (imm : BitVec 12) (s : State) : Result := aluImmediate .and rd rs1 (immShort imm) s

/-- SLLI (R146). -/
def execSlli (rd rs1 : RegIdx) (shamt : BitVec 5) (s : State) : Result :=
  aluImmediate .shiftLeftLogical rd rs1 (immShamt shamt) s
/-- SRLI (R147). -/
def execSrli (rd rs1 : RegIdx) (shamt : BitVec 5) (s : State) : Result :=
  aluImmediate .shiftRightLogical rd rs1 (immShamt shamt) s
/-- SRAI (R148). -/
def execSrai (rd rs1 : RegIdx) (shamt : BitVec 5) (s : State) : Result :=
  aluImmediate .shiftRightArithmetic rd rs1 (immShamt shamt) s

/-- LUI (R150): an addition to `x[0]`, whose read is really issued. -/
def execLui (rd : RegIdx) (imm20 : BitVec 20) (s : State) : Result := aluImmediate .add rd 0#5 (immU imm20) s

end Sys2Proof.Machine
end

