-- ==== Sys2Proof/Machine/AuipcCsr.lean ====
section
/-! DEFINITION. AUIPC, CSRR and CSRW (44_auipc_csr.md R190 to R193). -/

namespace Sys2Proof.Machine

/-- AUIPC (R190): `pc` is the address of the AUIPC itself. -/
def execAuipc (rd : RegIdx) (imm20 : BitVec 20) (s : State) : Result :=
  finishWrite s rd (s.relativeTarget (immU imm20)) s.nextPc

/-- CSRR (R191): the value is read before this instruction's own retirement is counted; nothing is written back. -/
def execCsrr (rd : RegIdx) (csr : CsrIdx) (s : State) : Result :=
  orFault (s.readCsr csr) fun v => finishWrite s rd v s.nextPc

/-- CSRW (R192): the read of S3 is issued and discarded (10_state.md R20), then `x[rs1]` is written. -/
def execCsrw (csr : CsrIdx) (rs1 : RegIdx) (s : State) : Result :=
  orFault (s.readCsr csr) fun _ => orFault (s.writeCsr csr (s.readReg rs1)) fun t => finish t s.nextPc

end Sys2Proof.Machine
end

