-- ==== Sys2Proof/Machine/ControlTransfer.lean ====
section
/-! DEFINITION. The branches and jumps (43_control_transfer.md R170 to R182). No target is checked (R171), no delay
slot exists (R172). -/

namespace Sys2Proof.Machine

/-- The template of the conditional branches (R182). -/
def branch (op : BranchOp) (rs1 rs2 : RegIdx) (offset : BitVec 13) (s : State) : Result :=
  finish s (if pred op (s.readReg rs1) (s.readReg rs2) then s.relativeTarget (immB offset) else s.nextPc)

/-- BEQ (R174). -/
def execBeq (rs1 rs2 : RegIdx) (offset : BitVec 13) (s : State) : Result := branch .equal rs1 rs2 offset s
/-- BNE (R175). -/
def execBne (rs1 rs2 : RegIdx) (offset : BitVec 13) (s : State) : Result := branch .notEqual rs1 rs2 offset s
/-- BLT (R176). -/
def execBlt (rs1 rs2 : RegIdx) (offset : BitVec 13) (s : State) : Result := branch .lessSigned rs1 rs2 offset s
/-- BGE (R177). -/
def execBge (rs1 rs2 : RegIdx) (offset : BitVec 13) (s : State) : Result :=
  branch .greaterOrEqualSigned rs1 rs2 offset s
/-- BLTU (R178). -/
def execBltu (rs1 rs2 : RegIdx) (offset : BitVec 13) (s : State) : Result := branch .lessUnsigned rs1 rs2 offset s
/-- BGEU (R179). -/
def execBgeu (rs1 rs2 : RegIdx) (offset : BitVec 13) (s : State) : Result :=
  branch .greaterOrEqualUnsigned rs1 rs2 offset s

/-- JAL (R180): both right-hand sides use the pc of the JAL itself. -/
def execJal (rd : RegIdx) (offset : BitVec 21) (s : State) : Result :=
  finishWrite s rd s.nextPc (s.relativeTarget (immJ offset))

/-- JALR (R181): `x[rs1]` is read before `x[rd]` is written, and bit 0 of the sum is not cleared. -/
def execJalr (rd rs1 : RegIdx) (imm : BitVec 12) (s : State) : Result :=
  finishWrite s rd s.nextPc (s.registerTarget rs1 imm)

end Sys2Proof.Machine
end

