-- ==== Sys2Proof/Machine/LoadStore.lean ====
section
/-! DEFINITION. LW and SW (42_load_store.md R160 to R163). -/

namespace Sys2Proof.Machine

/-- LW (R161): the base is read before the destination is written; the read happens for `rd = x0` too. -/
def execLw (rd rs1 : RegIdx) (imm : BitVec 12) (s : State) : Result :=
  orFault (s.memRead (s.effectiveAddress rs1 imm)) fun v => finishWrite s rd v s.nextPc

/-- SW (R162): the unmodified `x[rs2]`, all 32 bits. -/
def execSw (rs1 rs2 : RegIdx) (imm : BitVec 12) (s : State) : Result :=
  orFault (s.memWrite (s.effectiveAddress rs1 imm) (s.readReg rs2)) fun t => finish t s.nextPc

end Sys2Proof.Machine
end

