-- ==== Sys2Proof/Machine/Step.lean ====
section
/-! DEFINITION. One step (40_step_and_decode.md R90): S0 to S2 here, S3 to S8 in `exec`. -/

namespace Sys2Proof.Machine

/-- `step()`: refuse in Reset (S0, R106), fetch (S1), decode and refuse an illegal word (S2, 60_exceptions.md R202),
then execute the instruction. -/
def step (s : State) : Host.Outcome State Fault Refusal :=
  match s.runState with
  | .inReset => .refused .stepBeforeReset
  | .running =>
    orFault s.fetch fun w =>
      match decode w with
      | .ok i => exec i s
      | .error c => .refused (.illegalWord c w)

/-- The state that fetches next the instruction of a table row's bits (log entry 5). The core runs, the pc is word
aligned and its address is in MEM_VALID; where they are so already nothing but the four bytes at the pc changes. -/
def State.withFetchWord (s : State) (nbits w : Nat) : State :=
  let a := if aligned s.pc then s.pc else s.pc &&& 0xFFFFFFFC#32
  let valid := if s.memValid.any (fun r => r.contains a) then s.memValid else ⟨a, a⟩ :: s.memValid
  { s with pc := a, runState := .running, memValid := valid, mem := s.mem.setWord a (tableWord nbits w) }

end Sys2Proof.Machine
end

