-- ==== Sys2Proof/Machine/HostInterface.lean ====
section
/-! DEFINITION. What the host may do between steps (60_exceptions.md R215): load memory, `reset(startAddress)`,
`step()`, `pollHostMessage()`, stop; and the run that loop makes (R216). -/

namespace Sys2Proof.Machine

/-- `CsrFile.reset()`: "reinitializes all CSR state" (70_reset_and_hazards.md R230). -/
def State.resetCsrs (s : State) : State := { s with csrCycle := 0#32, csrInstret := 0#32, hostQueue := [] }

/-- The state in Running. -/
def State.start (s : State) : State := { s with runState := .running }

/-- `reset(startAddress)` (70_reset_and_hazards.md R230), valid in either state (R231). -/
def hostReset (startAddress : Word) (s : State) : State := ((s.resetCsrs).setPc startAddress).start

/-- `pollHostMessage()` (10_state.md R33): the oldest pending message, removed, or absent. -/
def pollHostMessage (s : State) : Option Word × State :=
  match s.hostQueue with
  | [] => (none, s)
  | v :: rest => (some v, { s with hostQueue := rest })

/-- The host loads words of a program image or of data, before `reset` (60_exceptions.md R215, log entry 11). -/
def hostLoad : List (Word × Word) → State → Result
  | [], s => .next s
  | (a, v) :: rest, s =>
    match s.runState with
    | .running => .refused .hostLoadWhileRunning
    | .inReset => if s.accessible a then hostLoad rest (s.storeWord a v) else .refused .hostLoadBadAddress

/-- The host's moves (60_exceptions.md R215). -/
inductive HostMove where
  | load (image : List (Word × Word))
  | reset (startAddress : Word)
  | step
  | poll
  | stop
deriving DecidableEq, Repr

/-- What each move does to the machine (60_exceptions.md R215). -/
def hostMove (m : HostMove) (s : State) : Result :=
  match m with
  | .load image => hostLoad image s
  | .reset startAddress => .next (hostReset startAddress s)
  | .step => Machine.step s
  | .poll =>
    match s.runState with
    | .running => .next (pollHostMessage s).2
    | .inReset => .refused .pollBeforeReset
  | .stop => .next s

/-- How a polled run ends (60_exceptions.md R216). -/
inductive RunEnd where
  /-- the first poll that returned a message: its value, the completed steps, the state after the poll -/
  | message (v : Word) (steps : Nat) (s : State)
  /-- no message yet after all the steps asked for -/
  | unfinished (s : State)
  /-- a step ended in a Fault: the run has gone wrong -/
  | faulted (f : Fault) (steps : Nat) (s : State)
  /-- a step was refused: the run has gone wrong -/
  | refusedAt (r : Refusal) (steps : Nat) (s : State)
deriving DecidableEq, Repr

/-- The driver of R216, with `done` steps completed so far: step, poll after every completed step, end at the first
message. -/
def runUntilMessageFrom : Nat → Nat → State → RunEnd
  | 0, _, s => .unfinished s
  | fuel + 1, completed, s =>
    match Machine.step s with
    | .fault f => .faulted f completed s
    | .refused r => .refusedAt r completed s
    | .next t =>
      match pollHostMessage t with
      | (some v, u) => .message v (completed + 1) u
      | (none, u) => runUntilMessageFrom fuel (completed + 1) u

/-- The polled run of at most `fuel` steps (60_exceptions.md R216). -/
def runUntilMessage (fuel : Nat) (s : State) : RunEnd := runUntilMessageFrom fuel 0 s

end Sys2Proof.Machine
end

