-- ==== Sys2Proof/Machine/Record.lean ====
section
/-! DEFINITION. The InstructionRecord and the stages that thread it (10_state.md R25 to R31, 40_step_and_decode.md R90
to R106): the spec's second description of execution, beside the per-instruction rules that `exec` follows. -/

namespace Sys2Proof.Machine

/-- The dispatch tag (10_state.md R26). -/
inductive Kind where
  | alu
  | load
  | store
  | branch
  | jump
  | jumpRegister
  | addUpperImmToPC
  | csrRead
  | csrWrite
deriving DecidableEq, Repr

/-- The bundle of wires of one step (10_state.md R25). An absent field is `none`: it is not zero and cannot be read
(R30). `nextProgramCounter` is absent until the execute stage has filled it. -/
structure InstructionRecord where
  kind : Kind
  aluOp : Option AluOp := none
  branchOp : Option BranchOp := none
  src1Index : Option RegIdx := none
  src2Index : Option RegIdx := none
  src1Value : Option Word := none
  src2Value : Option Word := none
  csrIndex : Option CsrIdx := none
  csrValue : Option Word := none
  immediate : Option Word := none
  destIndex : Option RegIdx := none
  data : Option Word := none
  address : Option Word := none
  nextProgramCounter : Option Word := none
deriving DecidableEq, Repr

/-! ## The decoder's output (R94) -/

/-- The row of the register-register forms. -/
def recordAluRegister (op : AluOp) (rd rs1 rs2 : RegIdx) : InstructionRecord :=
  { kind := .alu, aluOp := some op, src1Index := some rs1, src2Index := some rs2, destIndex := some rd }

/-- The row of the register-immediate forms, of the shifts and of LUI. -/
def recordAluImmediate (op : AluOp) (rd rs1 : RegIdx) (imm : Word) : InstructionRecord :=
  { kind := .alu, aluOp := some op, src1Index := some rs1, immediate := some imm, destIndex := some rd }

/-- The row of the conditional branches. -/
def recordBranch (op : BranchOp) (rs1 rs2 : RegIdx) (offset : BitVec 13) : InstructionRecord :=
  { kind := .branch, branchOp := some op, src1Index := some rs1, src2Index := some rs2, immediate := some (immB offset) }

/-- The record of an instruction (40_step_and_decode.md R94). -/
def recordOf : Instr → InstructionRecord
  | .add rd rs1 rs2 => recordAluRegister .add rd rs1 rs2
  | .sub rd rs1 rs2 => recordAluRegister .sub rd rs1 rs2
  | .sll rd rs1 rs2 => recordAluRegister .shiftLeftLogical rd rs1 rs2
  | .slt rd rs1 rs2 => recordAluRegister .setLessThanSigned rd rs1 rs2
  | .sltu rd rs1 rs2 => recordAluRegister .setLessThanUnsigned rd rs1 rs2
  | .xor rd rs1 rs2 => recordAluRegister .xor rd rs1 rs2
  | .srl rd rs1 rs2 => recordAluRegister .shiftRightLogical rd rs1 rs2
  | .sra rd rs1 rs2 => recordAluRegister .shiftRightArithmetic rd rs1 rs2
  | .or rd rs1 rs2 => recordAluRegister .or rd rs1 rs2
  | .and rd rs1 rs2 => recordAluRegister .and rd rs1 rs2
  | .addi rd rs1 imm => recordAluImmediate .add rd rs1 (immShort imm)
  | .slti rd rs1 imm => recordAluImmediate .setLessThanSigned rd rs1 (immShort imm)
  | .sltiu rd rs1 imm => recordAluImmediate .setLessThanUnsigned rd rs1 (immShort imm)
  | .xori rd rs1 imm => recordAluImmediate .xor rd rs1 (immShort imm)
  | .ori rd rs1 imm => recordAluImmediate .or rd rs1 (immShort imm)
  | .andi rd rs1 imm => recordAluImmediate .and rd rs1 (immShort imm)
  | .slli rd rs1 shamt => recordAluImmediate .shiftLeftLogical rd rs1 (immShamt shamt)
  | .srli rd rs1 shamt => recordAluImmediate .shiftRightLogical rd rs1 (immShamt shamt)
  | .srai rd rs1 shamt => recordAluImmediate .shiftRightArithmetic rd rs1 (immShamt shamt)
  | .lui rd imm20 => recordAluImmediate .add rd 0#5 (immU imm20)
  | .auipc rd imm20 => { kind := .addUpperImmToPC, immediate := some (immU imm20), destIndex := some rd }
  | .lw rd rs1 imm =>
    { kind := .load, aluOp := some .add, src1Index := some rs1, immediate := some (immShort imm), destIndex := some rd }
  | .sw rs1 rs2 imm =>
    { kind := .store, aluOp := some .add, src1Index := some rs1, src2Index := some rs2, immediate := some (immShort imm) }
  | .beq rs1 rs2 offset => recordBranch .equal rs1 rs2 offset
  | .bne rs1 rs2 offset => recordBranch .notEqual rs1 rs2 offset
  | .blt rs1 rs2 offset => recordBranch .lessSigned rs1 rs2 offset
  | .bge rs1 rs2 offset => recordBranch .greaterOrEqualSigned rs1 rs2 offset
  | .bltu rs1 rs2 offset => recordBranch .lessUnsigned rs1 rs2 offset
  | .bgeu rs1 rs2 offset => recordBranch .greaterOrEqualUnsigned rs1 rs2 offset
  | .jal rd offset =>
    { kind := .jump, branchOp := some .alwaysTaken, immediate := some (immJ offset), destIndex := some rd }
  | .jalr rd rs1 imm =>
    { kind := .jumpRegister, branchOp := some .alwaysTaken, src1Index := some rs1, immediate := some (immShort imm),
      destIndex := some rd }
  | .csrr rd csr => { kind := .csrRead, csrIndex := some csr, destIndex := some rd }
  | .csrw csr rs1 => { kind := .csrWrite, csrIndex := some csr, src1Index := some rs1 }

/-- `decode(rawWord) -> InstructionRecord`, widened by `Illegal` (30_encoding.md R72, R75). -/
def decodeRecord (w : Word) : Except IllegalClass InstructionRecord := (decode w).map recordOf

/-- No stage after the decoder has touched the record (10_state.md R31). -/
def InstructionRecord.fresh (r : InstructionRecord) : Bool :=
  r.src1Value.isNone && r.src2Value.isNone && r.csrValue.isNone && r.data.isNone && r.address.isNone &&
    r.nextProgramCounter.isNone

/-- The optional fields are present exactly as one row of R94 lists (00_scope.md R9, log entry 13). -/
def InstructionRecord.wellFormed (r : InstructionRecord) : Bool :=
  r.fresh &&
  match r.kind, r.aluOp, r.branchOp, r.src1Index, r.src2Index, r.csrIndex, r.immediate, r.destIndex with
  | .alu, some _, none, some _, some _, none, none, some _ => true
  | .alu, some op, none, some _, none, none, some _, some _ => op != .sub
  | .load, some .add, none, some _, none, none, some _, some _ => true
  | .store, some .add, none, some _, some _, none, some _, none => true
  | .branch, none, some _, some _, some _, none, some _, none => true
  | .jump, none, some .alwaysTaken, none, none, none, some _, some _ => true
  | .jumpRegister, none, some .alwaysTaken, some _, none, none, some _, some _ => true
  | .addUpperImmToPC, none, none, none, none, none, some _, some _ => true
  | .csrRead, none, none, none, none, some _, none, some _ => true
  | .csrWrite, none, none, some _, none, some _, none, none => true
  | _, _, _, _, _, _, _, _ => false

/-! ## S3, operand read (R95) -/

/-- The register reads: the presence of the indices alone decides (R95). -/
def readOperands (r : InstructionRecord) (s : State) : InstructionRecord :=
  { r with src1Value := r.src1Index.map s.readReg, src2Value := r.src2Index.map s.readReg }

/-- The CSR read, for CSRR and CSRW alike (10_state.md R20). -/
def readCsrStage (r : InstructionRecord) (s : State) : Except Fault InstructionRecord :=
  match r.csrIndex with
  | none => .ok r
  | some c => (s.readCsr c).map fun v => { r with csrValue := some v }

/-! ## S4, execute (R96 to R101) -/

/-- The ALU block (R97): open when operand 1 and a second operand are present; the immediate wins over `src2Value`;
the result is routed for the kinds Alu, Store and Load only. -/
def aluBlock (r : InstructionRecord) : InstructionRecord :=
  match r.aluOp, r.src1Value, r.immediate.or r.src2Value with
  | some op, some a, some b =>
    match r.kind with
    | .alu => { r with data := some (alu op a b) }
    | .store => { r with address := some (alu op a b), data := r.src2Value }
    | .load => { r with address := some (alu op a b) }
    | .branch | .jump | .jumpRegister | .addUpperImmToPC | .csrRead | .csrWrite => r
  | _, _, _ => r

/-- The special-data block (R99). -/
def specialDataBlock (r : InstructionRecord) (pc : Word) : InstructionRecord :=
  match r.kind with
  | .csrRead => { r with data := r.csrValue }
  | .csrWrite => { r with data := r.src1Value }
  | .jump | .jumpRegister => { r with data := some (pc + 4#32) }
  | .addUpperImmToPC => { r with data := r.immediate.map (pc + ·) }
  | .alu | .load | .store | .branch => r

/-- The candidate target of the control-flow block (R100). -/
def controlTarget (r : InstructionRecord) (pc : Word) : Option Word :=
  match r.kind with
  | .jumpRegister => r.src1Value.bind fun a => r.immediate.map (a + ·)
  | .alu | .load | .store | .branch | .jump | .addUpperImmToPC | .csrRead | .csrWrite => r.immediate.map (pc + ·)

/-- The predicate of the control-flow block: the constant ones read no operand (43_control_transfer.md R173). -/
def controlTaken (r : InstructionRecord) : Option Bool :=
  match r.branchOp, r.src1Value, r.src2Value with
  | some .alwaysTaken, _, _ => some true
  | some .neverTaken, _, _ => some false
  | some op, some a, some b => some (pred op a b)
  | _, _, _ => none

/-- The control-flow block (R100), gated by kind (90_conflicts.md C2). -/
def controlFlowBlock (r : InstructionRecord) (pc : Word) : InstructionRecord :=
  match r.kind with
  | .branch | .jump | .jumpRegister =>
    { r with nextProgramCounter := (controlTaken r).bind fun t => if t then controlTarget r pc else some (pc + 4#32) }
  | .alu | .load | .store | .addUpperImmToPC | .csrRead | .csrWrite => { r with nextProgramCounter := some (pc + 4#32) }

/-- `execute(record, programCounter)`: the three blocks, in this order (R96). -/
def execute (r : InstructionRecord) (pc : Word) : InstructionRecord :=
  controlFlowBlock (specialDataBlock (aluBlock r) pc) pc

/-! ## S5 to S8 (R102 to R105) -/

/-- `performAccess` (R102): Load fills `data`, Store writes it, every other kind does nothing. -/
def performAccess (r : InstructionRecord) (s : State) : Except Fault (InstructionRecord × State) :=
  match r.kind, r.address, r.data with
  | .load, some a, _ => (s.memRead a).map fun v => ({ r with data := some v }, s)
  | .store, some a, some v => (s.memWrite a v).map fun t => (r, t)
  | _, _, _ => .ok (r, s)

/-- `writeResult` (R103): gated on `destIndex` alone. -/
def writeResult (r : InstructionRecord) (s : State) : State :=
  match r.destIndex, r.data with
  | some d, some v => s.writeReg d v
  | _, _ => s

/-- `writeCsr` (R103): gated on the kind CsrWrite, not on `csrIndex` (90_conflicts.md C7). -/
def writeCsrStage (r : InstructionRecord) (s : State) : Except Fault State :=
  match r.kind, r.csrIndex, r.data with
  | .csrWrite, some c, some v => s.writeCsr c v
  | _, _, _ => .ok s

/-- S7 and S8 (R104, R105). -/
def finishRecord (r : InstructionRecord) (s : State) : Result :=
  match r.nextProgramCounter with
  | some next => .next (s.complete next)
  | none => .refused .malformedRecord

/-- S3 to S8 on a record, which must be well-formed (R90, R106). -/
def runRecord (r : InstructionRecord) (s : State) : Result :=
  if r.wellFormed then
    orFault (readCsrStage (readOperands r s) s) fun r3 =>
    orFault (performAccess (execute r3 s.pc) s) fun p =>
    orFault (writeCsrStage p.1 (writeResult p.1 p.2)) fun t =>
    finishRecord p.1 t
  else .refused .malformedRecord

/-- The step of R90 written over the record, S0 to S8. -/
def stepByRecord (s : State) : Result :=
  match s.runState with
  | .inReset => .refused .stepBeforeReset
  | .running =>
    orFault s.fetch fun w =>
      match decodeRecord w with
      | .ok r => runRecord r s
      | .error c => .refused (.illegalWord c w)

end Sys2Proof.Machine
end

