-- ==== Sys2Proof/Machine/Cycle.lean ====
section
/-! DEFINITION. The hardware rendering of the step (40_step_and_decode.md R93, 70_reset_and_hazards.md R230, R235): the
core as a function of its two registers and its in-ports (`coreCycle`), the reference collaborators answering its
requests in the same cycle (`answers`), the writes at the closing clock edge (`clockEdge`), and one clock cycle of the
whole (`cycle`). -/

namespace Sys2Proof.Machine

/-! ## The ports (R93) -/

/-- The inputs the host drives in one cycle (R93). -/
structure CycleInputs where
  resetReq : Bool
  startAddress : Word
  stepEn : Bool
  hostPoll : Bool
deriving DecidableEq, Repr

/-- The in-ports that the collaborators drive in one cycle (R93). A data port is `none` where it answers no request or a
request that failed (log entry 12). -/
structure Answers where
  /-- `imem_rdata` -/
  imemRdata : Option Word := none
  /-- `imem_fail` -/
  imemFail : Bool := false
  /-- `rf_rdata1` -/
  rfRdata1 : Option Word := none
  /-- `rf_rdata2` -/
  rfRdata2 : Option Word := none
  /-- `csr_rdata` -/
  csrRdata : Option Word := none
  /-- `csr_fail`, of this cycle's read or write -/
  csrFail : Bool := false
  /-- `dmem_rdata` -/
  dmemRdata : Option Word := none
  /-- `dmem_fail` -/
  dmemFail : Bool := false
  /-- the CSR file's answer to `pollHostMessage()` (10_state.md R20), which the core forwards (R107) -/
  hostMessage : Option Word := none
deriving DecidableEq, Repr

/-- The core's out-ports in one cycle (R93). A transaction that is not requested is `none` (log entry 12). -/
structure Ports where
  /-- `imem_addr`: always the pc -/
  imemAddr : Word
  /-- `rf_ren1`, `rf_raddr1` -/
  rfRead1 : Option RegIdx := none
  /-- `rf_ren2`, `rf_raddr2` -/
  rfRead2 : Option RegIdx := none
  /-- `rf_wen`, `rf_waddr`, `rf_wdata` -/
  rfWrite : Option (RegIdx × Word) := none
  /-- `csr_ren`, `csr_addr` -/
  csrRead : Option CsrIdx := none
  /-- `csr_wen`, `csr_addr`, `csr_wdata` -/
  csrWrite : Option (CsrIdx × Word) := none
  /-- `csr_retire` -/
  csrRetire : Bool := false
  /-- `csr_reset` -/
  csrReset : Bool := false
  /-- `dmem_req`, `dmem_addr` -/
  dmemReq : Option Word := none
  /-- `dmem_we`, `dmem_wdata` -/
  dmemWrite : Option Word := none
  /-- `host_valid`, `host_data` -/
  hostMessage : Option Word := none
  /-- `illegal` -/
  illegal : Bool := false
  /-- `fault` -/
  fault : Bool := false
deriving DecidableEq, Repr

/-- What the core drives in one cycle: its out-ports and the next values of its own two registers (10_state.md R10). -/
structure CoreCycle where
  ports : Ports
  nextPc : Word
  nextRunState : RunState
deriving DecidableEq, Repr

/-! ## The core (R93): combinational from its registers and its in-ports -/

/-- The core steps in this cycle, if the cycle does not fail: in Running with `step_en`, unless `reset_req` has priority
(R93, R230); `step_en` is ignored in state Reset (R106). -/
def CycleInputs.stepping (inp : CycleInputs) (run : RunState) : Bool :=
  inp.stepEn && run == .running && !inp.resetReq

/-- The decoder's answer for `imem_rdata`, where the fetch has not failed. -/
def Answers.decoded (ans : Answers) : Option (Except IllegalClass InstructionRecord) :=
  if ans.imemFail then none else ans.imemRdata.map decodeRecord

/-- "The decoder returned `Illegal` for `imem_rdata` in Running" (R93): whether or not the core steps (log
entry 14). -/
def illegalPort (run : RunState) (ans : Answers) : Bool :=
  match run, ans.decoded with
  | .running, some (.error _) => true
  | _, _ => false

/-- The operand values of S3, from `rf_rdata1`, `rf_rdata2` and `csr_rdata` where the record has the index (R95). -/
def InstructionRecord.withReads (r : InstructionRecord) (ans : Answers) : InstructionRecord :=
  { r with
    src1Value := r.src1Index.bind fun _ => ans.rfRdata1
    src2Value := r.src2Index.bind fun _ => ans.rfRdata2
    csrValue := r.csrIndex.bind fun _ => ans.csrRdata }

/-- The loaded word, from `dmem_rdata` (R102). -/
def InstructionRecord.withLoad (r : InstructionRecord) (ans : Answers) : InstructionRecord :=
  match r.kind with
  | .load => { r with data := ans.dmemRdata }
  | .alu | .store | .branch | .jump | .jumpRegister | .addUpperImmToPC | .csrRead | .csrWrite => r

/-- A failure signal of an access that this record's step really makes (R93, `fault`). -/
def accessFails (r : InstructionRecord) (ans : Answers) : Bool :=
  match r.kind with
  | .load | .store => ans.dmemFail
  | .csrRead | .csrWrite => ans.csrFail
  | .alu | .branch | .jump | .jumpRegister | .addUpperImmToPC => false

/-- The data access of an executed record: kind is Load or Store (R93, `dmem_req`). -/
def Ports.withAccess (p : Ports) (r : InstructionRecord) : Ports :=
  match r.kind, r.address, r.data with
  | .load, some a, _ => { p with dmemReq := some a }
  | .store, some a, some v => { p with dmemReq := some a, dmemWrite := some v }
  | _, _, _ => p

/-- The write-back of an executed record: `destIndex` present, kind CsrWrite (R93, `rf_wen`, `csr_wen`). -/
def Ports.withWriteBack (p : Ports) (r : InstructionRecord) : Ports :=
  { p with
    rfWrite := r.destIndex.bind fun d => r.data.map fun v => (d, v)
    csrWrite := if r.kind = .csrWrite then r.csrIndex.bind fun c => r.data.map fun v => (c, v) else none }

/-- S3 to S8 of a record, on ports that are otherwise `idle`. In a cycle with `fault` every write enable, `csr_retire`
and the pc update are suppressed (R93). -/
def recordCycle (idle : Ports) (r : InstructionRecord) (pc : Word) (ans : Answers) : CoreCycle :=
  let e := execute (r.withReads ans) pc
  let asked := { idle with rfRead1 := r.src1Index, rfRead2 := r.src2Index, csrRead := r.csrIndex }.withAccess e
  if accessFails r ans then
    { ports := { asked with dmemWrite := none, fault := true }, nextPc := pc, nextRunState := .running }
  else
    { ports := { asked.withWriteBack (e.withLoad ans) with csrRetire := true }
      nextPc := e.nextProgramCounter.getD pc
      nextRunState := .running }

/-- The core in one cycle (R93): what it drives, from its pc, its run_state and its in-ports alone. A cycle without a step
makes no access but the fetch and holds the core's registers (R237), but for `reset(startAddress)` (R230). -/
def coreCycle (pc : Word) (run : RunState) (inp : CycleInputs) (ans : Answers) : CoreCycle :=
  let idle : Ports :=
    { imemAddr := pc, csrReset := inp.resetReq, hostMessage := ans.hostMessage, illegal := illegalPort run ans }
  if inp.resetReq then { ports := idle, nextPc := inp.startAddress, nextRunState := .running }
  else if inp.stepping run then
    match ans.decoded with
    | some (.ok r) => recordCycle idle r pc ans
    | some (.error _) => { ports := idle, nextPc := pc, nextRunState := run }
    | none => { ports := { idle with fault := ans.imemFail }, nextPc := pc, nextRunState := run }
  else { ports := idle, nextPc := pc, nextRunState := run }

/-! ## The reference collaborators' answers within the cycle (R93, 70_reset_and_hazards.md R235 a to c) -/

/-- The collaborator signalled failure. -/
def failed (e : Except Fault α) : Bool :=
  match e with
  | .ok _ => false
  | .error _ => true

/-- The memory's answer to `imem_addr`, and the CSR file's to `host_poll`: neither waits for the core. -/
def answerFetch (inp : CycleInputs) (s : State) : Answers :=
  { imemRdata := s.fetch.toOption
    imemFail := failed s.fetch
    hostMessage := if inp.hostPoll then (pollHostMessage s).1 else none }

/-- The answers to the register and CSR reads on the ports `p`, from the values before this cycle's writes. -/
def answerReads (p : Ports) (s : State) (ans : Answers) : Answers :=
  { ans with
    rfRdata1 := p.rfRead1.map s.readReg
    rfRdata2 := p.rfRead2.map s.readReg
    csrRdata := p.csrRead.bind fun c => (s.readCsr c).toOption
    csrFail := p.csrRead.any fun c => failed (s.readCsr c) }

/-- The answers to the data access and the CSR write on the ports `p`. The CSR file answers the write that the core asks
for before any failure suppresses it (log entry 12). -/
def answerAccess (p : Ports) (s : State) (ans : Answers) : Answers :=
  { ans with
    dmemRdata := if p.dmemWrite.isSome then none else p.dmemReq.bind fun a => (s.memRead a).toOption
    dmemFail := p.dmemReq.any fun a =>
      match p.dmemWrite with
      | some v => failed (s.memWrite a v)
      | none => failed (s.memRead a)
    csrFail := ans.csrFail || p.csrWrite.any fun w => failed (s.writeCsr w.1 w.2) }

/-- The in-ports of one cycle, settled in the order of the stages: fetch, then reads, then data access and CSR write
(R90 S1, S3, S5, S6), each answering what the core asks for on the answers so far. -/
def answers (inp : CycleInputs) (s : State) : Answers :=
  let fetched := answerFetch inp s
  let read := answerReads (coreCycle s.pc s.runState inp fetched).ports s fetched
  answerAccess (coreCycle s.pc s.runState inp read).ports s read

/-! ## The closing clock edge (R93, 70_reset_and_hazards.md R235) -/

/-- The memory's write of a store that is not suppressed. -/
def State.edgeMemory (s : State) (p : Ports) : State :=
  match p.dmemReq, p.dmemWrite with
  | some a, some v => s.storeWord a v
  | _, _ => s

/-- The register file's write. -/
def State.edgeRegisters (s : State) (p : Ports) : State :=
  match p.rfWrite with
  | some (d, v) => s.writeReg d v
  | none => s

/-- The CSR file's write; one that the CSR file rejects changes nothing. -/
def State.edgeCsrWrite (s : State) (p : Ports) : State :=
  match p.csrWrite with
  | some (c, v) =>
    match s.writeCsr c v with
    | .ok t => t
    | .error _ => s
  | none => s

/-- The CSR file's "write, then retirement count" (R235 c), and its `reset()`. -/
def State.edgeCsrs (s : State) (p : Ports) : State :=
  let t := s.edgeCsrWrite p
  let u := if p.csrRetire then t.retire else t
  if p.csrReset then u.resetCsrs else u

/-- Every write of a cycle, taking effect together at its closing edge: the collaborators' from the core's out-ports and
the host's poll, the core's two registers from their next values. -/
def clockEdge (c : CoreCycle) (inp : CycleInputs) (s : State) : State :=
  let t := ((s.edgeMemory c.ports).edgeRegisters c.ports).edgeCsrs c.ports
  let u := if inp.hostPoll then (pollHostMessage t).2 else t
  { u with pc := c.nextPc, runState := c.nextRunState }

/-- One period of `clk`, the core with the reference collaborators. A poll in the cycle of a step or a reset, or before
the first reset, is refused (log entry 11). -/
def cycle (inp : CycleInputs) (s : State) : Host.Outcome (State × Ports) Fault Refusal :=
  if inp.hostPoll && (inp.resetReq || inp.stepping s.runState) then .refused .pollDuringStep
  else if inp.hostPoll && s.runState == .inReset then .refused .pollBeforeReset
  else
    let c := coreCycle s.pc s.runState inp (answers inp s)
    .next (clockEdge c inp s, c.ports)

end Sys2Proof.Machine
end

