-- ==== Sys2Proof/Safety.lean ====
section
/-! DEFINITION. The terms the statements use: the invariant, what a completed step may change, the registers an
instruction reads and writes (10_state.md R13), its other accesses, the requests on the ports (40_step_and_decode.md R93), and the spec's arithmetic written on integers (41_alu.md R120). -/

namespace Sys2Proof.Machine

/-! ## The invariant -/

/-- The memory has its canonical form, the slot of x0 holds 0 (10_state.md R12), and `cycle` equals `instret`
(R22: "cycle always equals instret"). -/
def State.Inv (s : State) : Prop :=
  s.mem.wf ∧ s.regs[0] = 0#32 ∧ s.csrCycle = s.csrInstret

/-- A safe step: it completes, with neither a fault nor a refusal (60_exceptions.md R201). -/
def State.SafeStep (s : State) : Prop := ∃ t, step s = .next t

/-! ## What a completed step changes -/

/-- One instruction retired and the pc is `next` (40_step_and_decode.md S7, S8); run_state and MEM_VALID stay. -/
def Retires (s t : State) (next : Word) : Prop :=
  t.pc = next ∧ t.csrCycle = s.csrCycle + 1#32 ∧ t.csrInstret = s.csrInstret + 1#32 ∧ t.runState = s.runState ∧
    t.memValid = s.memValid

/-- Every general register reads as before. -/
def SameRegisters (s t : State) : Prop := ∀ r, t.readReg r = s.readReg r

/-- Every byte of memory reads as before. -/
def SameMemory (s t : State) : Prop := ∀ a, t.readByte a = s.readByte a

/-- `x[rd] <- v`, a write to x0 discarded (10_state.md R12), and every other register reads as before. -/
def WritesOnly (s t : State) (rd : RegIdx) (v : Word) : Prop :=
  t.readReg rd = (if rd = 0#5 then 0#32 else v) ∧ ∀ r, r ≠ rd → t.readReg r = s.readReg r

/-- A completed step that writes one register and nothing else but the pc and the counters. -/
def RegisterStep (s t : State) (rd : RegIdx) (v next : Word) : Prop :=
  Retires s t next ∧ WritesOnly s t rd v ∧ SameMemory s t ∧ t.hostQueue = s.hostQueue

/-- A completed step that writes nothing but the pc and the counters. -/
def TransferStep (s t : State) (next : Word) : Prop :=
  Retires s t next ∧ SameRegisters s t ∧ SameMemory s t ∧ t.hostQueue = s.hostQueue

/-! ## The spec's arithmetic on integers -/

/-- The result column of the ALU table (41_alu.md R120, R122): `r` is `ALU(op, a, b)`. -/
def AluTable (op : AluOp) (a b r : Word) : Prop :=
  match op with
  | .add => r.toNat = (a.toNat + b.toNat) % 2 ^ 32
  | .sub => (r.toNat : Int) = ((a.toNat : Int) - b.toNat) % 2 ^ 32
  | .and => ∀ i, r.getLsbD i = (a.getLsbD i && b.getLsbD i)
  | .or => ∀ i, r.getLsbD i = (a.getLsbD i || b.getLsbD i)
  | .xor => ∀ i, r.getLsbD i = (a.getLsbD i != b.getLsbD i)
  | .shiftLeftLogical => r.toNat = a.toNat * 2 ^ (b.toNat % 32) % 2 ^ 32
  | .shiftRightLogical => r.toNat = a.toNat / 2 ^ (b.toNat % 32)
  | .shiftRightArithmetic => (r.toNat : Int) = a.toInt / 2 ^ (b.toNat % 32) % 2 ^ 32
  | .setLessThanSigned => r.toNat = if a.toInt < b.toInt then 1 else 0
  | .setLessThanUnsigned => r.toNat = if a.toNat < b.toNat then 1 else 0

/-- The Word at a signed distance from a Word, modulo 2^32 (00_scope.md R8, 43_control_transfer.md R170). -/
def displaced (base : Word) (d : Int) : Word := BitVec.ofInt 32 (base.toNat + d)

/-- An instruction completes with `x[rd] <- ALU(op, a, b)` and `pc <- pc + 4` (41_alu.md R129). -/
def Yields (i : Instr) (s : State) (rd : RegIdx) (op : AluOp) (a b : Word) : Prop :=
  ∃ t v, exec i s = .next t ∧ AluTable op a b v ∧ RegisterStep s t rd v (displaced s.pc 4)

/-- A branch completes: to `pc + offset` when `taken` holds, to `pc + 4` when it does not (43_control_transfer.md R182). -/
def Branches (i : Instr) (s : State) (taken : Prop) (offset : BitVec 13) : Prop :=
  ∃ t, exec i s = .next t ∧
    ((taken ∧ TransferStep s t (displaced s.pc offset.toInt)) ∨ (¬taken ∧ TransferStep s t (displaced s.pc 4)))

/-- Every word with the row's fixed bits decodes to the row's instruction (30_encoding.md R63). -/
def RowDecodes (fixed mask : Word) (f : Word → Instr) : Prop :=
  ∀ w : Word, w &&& mask = fixed → decode w = .ok (f w)

/-- The memory accepts an access at `a`: a multiple of 4 in MEM_VALID (20_memory.md R40, R43, R46). -/
def InMemory (s : State) (a : Word) : Prop :=
  a.toNat % 4 = 0 ∧ ∃ r ∈ s.memValid, r.first.toNat ≤ a.toNat ∧ a.toNat ≤ r.last.toNat

/-! ## Which registers an instruction reads and writes (10_state.md R13) -/

/-- The "reads" column of R13. -/
def sources : Instr → List RegIdx
  | .add _ rs1 rs2 | .sub _ rs1 rs2 | .sll _ rs1 rs2 | .slt _ rs1 rs2 | .sltu _ rs1 rs2 => [rs1, rs2]
  | .xor _ rs1 rs2 | .srl _ rs1 rs2 | .sra _ rs1 rs2 | .or _ rs1 rs2 | .and _ rs1 rs2 => [rs1, rs2]
  | .addi _ rs1 _ | .slti _ rs1 _ | .sltiu _ rs1 _ | .xori _ rs1 _ | .ori _ rs1 _ | .andi _ rs1 _ => [rs1]
  | .slli _ rs1 _ | .srli _ rs1 _ | .srai _ rs1 _ => [rs1]
  | .lui _ _ => [0#5]
  | .auipc _ _ => []
  | .lw _ rs1 _ => [rs1]
  | .sw rs1 rs2 _ => [rs1, rs2]
  | .beq rs1 rs2 _ | .bne rs1 rs2 _ | .blt rs1 rs2 _ | .bge rs1 rs2 _ | .bltu rs1 rs2 _ | .bgeu rs1 rs2 _ => [rs1, rs2]
  | .jal _ _ => []
  | .jalr _ rs1 _ => [rs1]
  | .csrr _ _ => []
  | .csrw _ rs1 => [rs1]

/-- The "writes" column of R13. -/
def destination : Instr → Option RegIdx
  | .add rd _ _ | .sub rd _ _ | .sll rd _ _ | .slt rd _ _ | .sltu rd _ _ => some rd
  | .xor rd _ _ | .srl rd _ _ | .sra rd _ _ | .or rd _ _ | .and rd _ _ => some rd
  | .addi rd _ _ | .slti rd _ _ | .sltiu rd _ _ | .xori rd _ _ | .ori rd _ _ | .andi rd _ _ => some rd
  | .slli rd _ _ | .srli rd _ _ | .srai rd _ _ => some rd
  | .lui rd _ | .auipc rd _ | .lw rd _ _ | .jal rd _ | .jalr rd _ _ | .csrr rd _ => some rd
  | .sw _ _ _ | .beq _ _ _ | .bne _ _ _ | .blt _ _ _ | .bge _ _ _ | .bltu _ _ _ | .bgeu _ _ _ | .csrw _ _ => none

/-! ## The accesses an instruction makes beside the general registers (42_load_store.md R160, 44_auipc_csr.md R192) -/

/-- The address of the data access of LW and SW; no other instruction makes one (40_step_and_decode.md R102). -/
def dataAddress (s : State) : Instr → Option Word
  | .lw _ rs1 imm | .sw rs1 _ imm => some (s.effectiveAddress rs1 imm)
  | .add _ _ _ | .sub _ _ _ | .sll _ _ _ | .slt _ _ _ | .sltu _ _ _ | .xor _ _ _ | .srl _ _ _ | .sra _ _ _ => none
  | .or _ _ _ | .and _ _ _ | .addi _ _ _ | .slti _ _ _ | .sltiu _ _ _ | .xori _ _ _ | .ori _ _ _ | .andi _ _ _ => none
  | .slli _ _ _ | .srli _ _ _ | .srai _ _ _ | .lui _ _ | .auipc _ _ | .jal _ _ | .jalr _ _ _ => none
  | .beq _ _ _ | .bne _ _ _ | .blt _ _ _ | .bge _ _ _ | .bltu _ _ _ | .bgeu _ _ _ | .csrr _ _ | .csrw _ _ => none

/-- The Word that SW stores; no other instruction stores. -/
def storedWord (s : State) : Instr → Option Word
  | .sw _ rs2 _ => some (s.readReg rs2)
  | .lw _ _ _ | .slli _ _ _ | .srli _ _ _ | .srai _ _ _ | .lui _ _ | .auipc _ _ | .jal _ _ | .jalr _ _ _ => none
  | .add _ _ _ | .sub _ _ _ | .sll _ _ _ | .slt _ _ _ | .sltu _ _ _ | .xor _ _ _ | .srl _ _ _ | .sra _ _ _ => none
  | .or _ _ _ | .and _ _ _ | .addi _ _ _ | .slti _ _ _ | .sltiu _ _ _ | .xori _ _ _ | .ori _ _ _ | .andi _ _ _ => none
  | .beq _ _ _ | .bne _ _ _ | .blt _ _ _ | .bge _ _ _ | .bltu _ _ _ | .bgeu _ _ _ | .csrr _ _ | .csrw _ _ => none

/-- The CSR index and the Word that CSRW writes; no other instruction writes a CSR (R103). -/
def csrWritten (s : State) : Instr → Option (CsrIdx × Word)
  | .csrw csr rs1 => some (csr, s.readReg rs1)
  | .lw _ _ _ | .slli _ _ _ | .srli _ _ _ | .srai _ _ _ | .lui _ _ | .auipc _ _ | .jal _ _ | .jalr _ _ _ => none
  | .add _ _ _ | .sub _ _ _ | .sll _ _ _ | .slt _ _ _ | .sltu _ _ _ | .xor _ _ _ | .srl _ _ _ | .sra _ _ _ => none
  | .or _ _ _ | .and _ _ _ | .addi _ _ _ | .slti _ _ _ | .sltiu _ _ _ | .xori _ _ _ | .ori _ _ _ | .andi _ _ _ => none
  | .beq _ _ _ | .bne _ _ _ | .blt _ _ _ | .bge _ _ _ | .bltu _ _ _ | .bgeu _ _ _ | .csrr _ _ | .sw _ _ _ => none

/-! ## The request rows of the port list (40_step_and_decode.md R93) -/

/-- The core asks for no access but the fetch. -/
def AsksForNothing (p : Ports) : Prop :=
  p.rfRead1 = none ∧ p.rfRead2 = none ∧ p.csrRead = none ∧ p.dmemReq = none ∧ p.rfWrite = none ∧ p.csrWrite = none ∧
    p.csrRetire = false ∧ p.dmemWrite = none

/-- The read and data requests of a cycle that steps the instruction `i`, whose record is `r`, and `csr_fail` as the CSR
file's failure of that record's read or write. -/
def AsksAsDecoded (s : State) (i : Instr) (r : InstructionRecord) (p : Ports) (ans : Answers) : Prop :=
  p.rfRead1 = r.src1Index ∧ p.rfRead2 = r.src2Index ∧ p.csrRead = r.csrIndex ∧
    (p.dmemReq.isSome = true ↔ r.kind = .load ∨ r.kind = .store) ∧ p.dmemReq = dataAddress s i ∧
    (ans.csrFail = true ↔ (∃ c f, r.csrIndex = some c ∧ s.readCsr c = .error f) ∨
      ∃ c v f, csrWritten s i = some (c, v) ∧ s.writeCsr c v = .error f)

/-- Two states that differ in general registers alone. -/
def SameButRegisters (s t : State) : Prop :=
  t.pc = s.pc ∧ t.runState = s.runState ∧ t.csrCycle = s.csrCycle ∧ t.csrInstret = s.csrInstret ∧
    t.hostQueue = s.hostQueue ∧ t.mem = s.mem ∧ t.memValid = s.memValid

/-! ## The function fields of the opcode table (30_encoding.md R63) -/

/-- Rows 1 to 10: funct7, funct3 and the operation. -/
def registerFunctions : List (BitVec 7 × BitVec 3 × AluOp) :=
  [(0b0000000#7, 0b000#3, .add), (0b0100000#7, 0b000#3, .sub), (0b0000000#7, 0b001#3, .shiftLeftLogical),
    (0b0000000#7, 0b010#3, .setLessThanSigned), (0b0000000#7, 0b011#3, .setLessThanUnsigned),
    (0b0000000#7, 0b100#3, .xor), (0b0000000#7, 0b101#3, .shiftRightLogical),
    (0b0100000#7, 0b101#3, .shiftRightArithmetic), (0b0000000#7, 0b110#3, .or), (0b0000000#7, 0b111#3, .and)]

/-- Rows 11 to 19: inst[31:25] (a function code in the three shifts only), funct3 and the operation. -/
def immediateFunctions : List (BitVec 7 × BitVec 3 × AluOp) :=
  [(0b0000000#7, 0b000#3, .add), (0b0000000#7, 0b010#3, .setLessThanSigned),
    (0b0000000#7, 0b011#3, .setLessThanUnsigned), (0b0000000#7, 0b100#3, .xor), (0b0000000#7, 0b110#3, .or),
    (0b0000000#7, 0b111#3, .and), (0b0000000#7, 0b001#3, .shiftLeftLogical),
    (0b0000000#7, 0b101#3, .shiftRightLogical), (0b0100000#7, 0b101#3, .shiftRightArithmetic)]

/-- Rows 24 to 29: funct3 and the predicate. -/
def branchFunctions : List (BitVec 3 × BranchOp) :=
  [(0b000#3, .equal), (0b001#3, .notEqual), (0b100#3, .lessSigned), (0b101#3, .greaterOrEqualSigned),
    (0b110#3, .lessUnsigned), (0b111#3, .greaterOrEqualUnsigned)]

/-! ## Polling -/

/-- `n` polls, one after the other: their answers and the state they leave (10_state.md R33). -/
def pollMany : Nat → State → List (Option Word) × State
  | 0, s => ([], s)
  | n + 1, s =>
    let p := pollHostMessage s
    let q := pollMany n p.2
    (p.1 :: q.1, q.2)

end Sys2Proof.Machine
end

