-- ==== Sys2Proof/Certificates/Slice0/Obligations.lean ====
section
/-! DEFINITION. The statements for the provers. Each docstring names the rules of spec/ it formalises; a statement
that rests on a choice of the model names the log entry. -/

open Sys2Proof Sys2Proof.Machine

/-! ## Encoding and decoding (30_encoding.md) -/

/-- Words of 95_test_vectors.md Part 5 (V1, V300, V303, V308, V311, V312, V313, V315, V320, V328, V332, V334, V336) decode
to the instructions they stand for. -/
def Obligations.SampleWordsDecode : Prop :=
  decode 0x0020E663#32 = .ok (.bltu 1#5 2#5 12#13) ∧
  decode 0x002081B3#32 = .ok (.add 3#5 1#5 2#5) ∧
  decode 0x7FF08193#32 = .ok (.addi 3#5 1#5 0x7FF#12) ∧
  decode 0x41F0D193#32 = .ok (.srai 3#5 1#5 31#5) ∧
  decode 0x123452B7#32 = .ok (.lui 5#5 0x12345#20) ∧
  decode 0x80000297#32 = .ok (.auipc 5#5 0x80000#20) ∧
  decode 0xFFC0A183#32 = .ok (.lw 3#5 1#5 0xFFC#12) ∧
  decode 0xFE20AE23#32 = .ok (.sw 1#5 2#5 0xFFC#12) ∧
  decode 0x80000063#32 = .ok (.beq 0#5 0#5 0x1000#13) ∧
  decode 0x7FFFF0EF#32 = .ok (.jal 1#5 0x0FFFFE#21) ∧
  decode 0xFFC280E7#32 = .ok (.jalr 1#5 5#5 0xFFC#12) ∧
  decode 0xC02021F3#32 = .ok (.csrr 3#5 0xC02#12) ∧
  decode 0x78009073#32 = .ok (.csrw 0x780#12 1#5)

/-- Decode and encode agree (R61, R63, R73): the word of a well-formed instruction decodes to it, with every operand at
every value its encoding admits. -/
def Obligations.DecodeOfEncode : Prop :=
  ∀ i : Instr, i.wellFormed = true → decode (encode i) = .ok i

/-- No bit of a valid word is dropped (R63, 93_implementation_defined.md U18): what decodes is well-formed and encodes to
the same word. -/
def Obligations.EncodeOfDecode : Prop :=
  ∀ (w : Word) (i : Instr), decode w = .ok i → i.wellFormed = true ∧ encode i = w

/-- R75: "Every 32-bit word that matches no row of rule R63 is illegal. The decoder returns Illegal for it and produces no
record", and a word that matches a row is not illegal; in Running the step on an illegal word is refused, and the clock
cycle of that step changes no state and signals `illegal`. -/
def Obligations.IllegalIffNoRowMatches : Prop :=
  (∀ w : Word, (∃ c, decodeRecord w = .error c) ↔ ∀ row ∈ opcodeTable, w &&& row.mask ≠ row.fixed) ∧
  (∀ (w a : Word) (s : State), s.runState = .running → s.fetch = .ok w →
    (∀ row ∈ opcodeTable, w &&& row.mask ≠ row.fixed) →
    (∃ c, step s = .refused (.illegalWord c w)) ∧
    ∃ p, cycle { resetReq := false, startAddress := a, stepEn := true, hostPoll := false } s = .next (s, p) ∧
      p.illegal = true)

/-- R76: the nine classes of illegal words, each refused under its own name. -/
def Obligations.IllegalWordClasses : Prop :=
  ∀ w : Word,
    (w.extractLsb 1 0 ≠ 0b11#2 → decode w = .error .shortOrCompressed) ∧
    (w.extractLsb 1 0 = 0b11#2 ∧ w.extractLsb 6 2 ∉
        [0b00000#5, 0b00100#5, 0b00101#5, 0b01000#5, 0b01100#5, 0b01101#5, 0b11000#5, 0b11001#5, 0b11011#5, 0b11100#5] →
      decode w = .error .unusedMajorOpcode) ∧
    (w.extractLsb 6 0 = 0b0110011#7 ∧ w.extractLsb 31 25 ≠ 0b0000000#7 ∧
        ¬(w.extractLsb 31 25 = 0b0100000#7 ∧ (w.extractLsb 14 12 = 0b000#3 ∨ w.extractLsb 14 12 = 0b101#3)) →
      decode w = .error .aluBadFunction) ∧
    (w.extractLsb 6 0 = 0b0010011#7 ∧
        ((w.extractLsb 14 12 = 0b001#3 ∧ w.extractLsb 31 25 ≠ 0b0000000#7) ∨
          (w.extractLsb 14 12 = 0b101#3 ∧ w.extractLsb 31 25 ≠ 0b0000000#7 ∧ w.extractLsb 31 25 ≠ 0b0100000#7)) →
      decode w = .error .shiftBadFunction) ∧
    (w.extractLsb 6 0 = 0b0000011#7 ∧ w.extractLsb 14 12 ≠ 0b010#3 → decode w = .error .loadOtherWidth) ∧
    (w.extractLsb 6 0 = 0b0100011#7 ∧ w.extractLsb 14 12 ≠ 0b010#3 → decode w = .error .storeOtherWidth) ∧
    (w.extractLsb 6 0 = 0b1100011#7 ∧ (w.extractLsb 14 12 = 0b010#3 ∨ w.extractLsb 14 12 = 0b011#3) →
      decode w = .error .branchUnusedPredicate) ∧
    (w.extractLsb 6 0 = 0b1100111#7 ∧ w.extractLsb 14 12 ≠ 0b000#3 → decode w = .error .registerJumpBadFunction) ∧
    (w.extractLsb 6 0 = 0b1110011#7 ∧ ¬(w.extractLsb 14 12 = 0b010#3 ∧ w.extractLsb 19 15 = 0#5) ∧
        ¬(w.extractLsb 14 12 = 0b001#3 ∧ w.extractLsb 11 7 = 0#5) →
      decode w = .error .csrOtherForm)

/-- R65 to R71: the immediate of every decoded record, by its opcode, in the concatenated form of each rule. -/
def Obligations.ImmediatesOfDecodedRecords : Prop :=
  ∀ (w : Word) (r : InstructionRecord), decodeRecord w = .ok r →
    let op := w.extractLsb 6 0
    let f3 := w.extractLsb 14 12
    let fill (n : Nat) : BitVec n := if w.getLsbD 31 then BitVec.allOnes n else 0#n
    (((op = 0b0010011#7 ∧ f3 ≠ 0b001#3 ∧ f3 ≠ 0b101#3) ∨ op = 0b0000011#7 ∨ op = 0b1100111#7) →
      r.immediate = some (fill 20 ++ w.extractLsb 31 20)) ∧
    (op = 0b0100011#7 → r.immediate = some (fill 20 ++ w.extractLsb 31 25 ++ w.extractLsb 11 7)) ∧
    (op = 0b1100011#7 → r.immediate =
      some (fill 19 ++ w.extractLsb 31 31 ++ w.extractLsb 7 7 ++ w.extractLsb 30 25 ++ w.extractLsb 11 8 ++ 0#1)) ∧
    ((op = 0b0110111#7 ∨ op = 0b0010111#7) → r.immediate = some (w.extractLsb 31 12 ++ 0#12)) ∧
    (op = 0b1101111#7 → r.immediate =
      some (fill 11 ++ w.extractLsb 31 31 ++ w.extractLsb 19 12 ++ w.extractLsb 20 20 ++ w.extractLsb 30 21 ++ 0#1)) ∧
    (op = 0b0010011#7 ∧ (f3 = 0b001#3 ∨ f3 = 0b101#3) → r.immediate = some (0#27 ++ w.extractLsb 24 20)) ∧
    (op = 0b1110011#7 → r.immediate = none ∧ r.csrIndex = some (w.extractLsb 31 20)) ∧
    (op = 0b0110011#7 → r.immediate = none)

/-- R94 with R63 and R73: the whole record of every word that decodes, by its opcode and function fields: which fields are
present and what they hold. The immediates are those of `ImmediatesOfDecodedRecords`. -/
def Obligations.DecodedRecordsFollowTheTable : Prop :=
  ∀ (w : Word) (r : InstructionRecord), decodeRecord w = .ok r →
    let op := w.extractLsb 6 0
    let f3 := w.extractLsb 14 12
    let f7 := w.extractLsb 31 25
    let rd := some (w.extractLsb 11 7)
    let rs1 := some (w.extractLsb 19 15)
    let rs2 := some (w.extractLsb 24 20)
    let csr := some (w.extractLsb 31 20)
    let imm := r.immediate
    (op = 0b0110011#7 → ∃ e ∈ registerFunctions, e.1 = f7 ∧ e.2.1 = f3 ∧
      r = { kind := .alu, aluOp := some e.2.2, src1Index := rs1, src2Index := rs2, destIndex := rd }) ∧
    (op = 0b0010011#7 → imm ≠ none ∧ ∃ e ∈ immediateFunctions, e.2.1 = f3 ∧ (f3 = 0b001#3 ∨ f3 = 0b101#3 → e.1 = f7) ∧
      r = { kind := .alu, aluOp := some e.2.2, src1Index := rs1, immediate := imm, destIndex := rd }) ∧
    (op = 0b0110111#7 → imm ≠ none ∧
      r = { kind := .alu, aluOp := some .add, src1Index := some 0#5, immediate := imm, destIndex := rd }) ∧
    (op = 0b0010111#7 → imm ≠ none ∧ r = { kind := .addUpperImmToPC, immediate := imm, destIndex := rd }) ∧
    (op = 0b0000011#7 → imm ≠ none ∧
      r = { kind := .load, aluOp := some .add, src1Index := rs1, immediate := imm, destIndex := rd }) ∧
    (op = 0b0100011#7 → imm ≠ none ∧
      r = { kind := .store, aluOp := some .add, src1Index := rs1, src2Index := rs2, immediate := imm }) ∧
    (op = 0b1100011#7 → imm ≠ none ∧ ∃ e ∈ branchFunctions, e.1 = f3 ∧
      r = { kind := .branch, branchOp := some e.2, src1Index := rs1, src2Index := rs2, immediate := imm }) ∧
    (op = 0b1101111#7 → imm ≠ none ∧
      r = { kind := .jump, branchOp := some .alwaysTaken, immediate := imm, destIndex := rd }) ∧
    (op = 0b1100111#7 → imm ≠ none ∧
      r = { kind := .jumpRegister, branchOp := some .alwaysTaken, src1Index := rs1, immediate := imm, destIndex := rd }) ∧
    (op = 0b1110011#7 → (f3 = 0b010#3 ∧ r = { kind := .csrRead, csrIndex := csr, destIndex := rd }) ∨
      (f3 = 0b001#3 ∧ r = { kind := .csrWrite, csrIndex := csr, src1Index := rs1 }))

/-- The decoder produces only well-formed records (40_step_and_decode.md R94, R106), and a record that is not
well-formed is refused (R106, 60_exceptions.md R204). -/
def Obligations.OnlyWellFormedRecordsRun : Prop :=
  (∀ (w : Word) (r : InstructionRecord), decodeRecord w = .ok r → r.wellFormed = true) ∧
  (∀ (r : InstructionRecord) (s : State), r.wellFormed = false → runRecord r s = .refused .malformedRecord)

/-! ## The ALU and the predicates (41_alu.md, 43_control_transfer.md) -/

/-- R120: the ALU is total and its result is the table's, for every operation and every pair of Words. -/
def Obligations.AluMatchesTheTable : Prop :=
  ∀ (op : AluOp) (a b : Word), AluTable op a b (alu op a b)

/-- R121: Add and Sub wrap, Sub is Add of the negation, and the rule's corner values. -/
def Obligations.AddAndSubWrap : Prop :=
  (∀ a b : Word, (alu .add a b).toNat = (a.toNat + b.toNat) % 2 ^ 32 ∧
    alu .sub a b = alu .add a (alu .add (~~~b) 1#32) ∧ alu .sub a a = 0#32 ∧
    ((alu .sub a b).toNat : Int) = ((a.toNat : Int) - b.toNat) % 2 ^ 32) ∧
  alu .add 0xFFFFFFFF#32 1#32 = 0#32 ∧ alu .add 0x7FFFFFFF#32 1#32 = 0x80000000#32 ∧
  alu .sub 0#32 1#32 = 0xFFFFFFFF#32 ∧ alu .sub 0x80000000#32 1#32 = 0x7FFFFFFF#32

/-- R123 to R125: every bit of the three shifts, the amount taken modulo 32, and the rules' corner values. -/
def Obligations.ShiftsBitByBit : Prop :=
  (∀ (a b : Word) (i : Nat), i < 32 →
    let n := b.toNat % 32
    (alu .shiftLeftLogical a b).getLsbD i = (if n ≤ i then a.getLsbD (i - n) else false) ∧
    (alu .shiftRightLogical a b).getLsbD i = (if i + n ≤ 31 then a.getLsbD (i + n) else false) ∧
    (alu .shiftRightArithmetic a b).getLsbD i = (if i + n ≤ 31 then a.getLsbD (i + n) else a.getLsbD 31)) ∧
  (∀ a : Word, alu .shiftLeftLogical a 0#32 = a ∧ alu .shiftLeftLogical a 32#32 = a ∧
    alu .shiftRightLogical a 32#32 = a) ∧
  alu .shiftLeftLogical 1#32 33#32 = 2#32 ∧ alu .shiftRightLogical 0x80000000#32 31#32 = 1#32 ∧
  alu .shiftRightArithmetic 0x80000000#32 31#32 = 0xFFFFFFFF#32 ∧
  alu .shiftRightArithmetic 0x7FFFFFFF#32 31#32 = 0#32 ∧
  alu .shiftRightArithmetic 0xF0000000#32 4#32 = 0xFF000000#32

/-- R126 and R127: the two comparisons, on all 32 bits, with the rule's second form of the signed one and the corner
values. -/
def Obligations.ComparisonsAreFullWidth : Prop :=
  (∀ a b : Word,
    alu .setLessThanSigned a b = (if a.toInt < b.toInt then 1#32 else 0#32) ∧
    alu .setLessThanSigned a b = (if (a ^^^ 0x80000000#32).toNat < (b ^^^ 0x80000000#32).toNat then 1#32 else 0#32) ∧
    alu .setLessThanUnsigned a b = (if a.toNat < b.toNat then 1#32 else 0#32) ∧
    alu .setLessThanSigned a a = 0#32 ∧ alu .setLessThanUnsigned a 0#32 = 0#32) ∧
  alu .setLessThanSigned 0x80000000#32 0x7FFFFFFF#32 = 1#32 ∧
  alu .setLessThanSigned 0x7FFFFFFF#32 0x80000000#32 = 0#32 ∧
  alu .setLessThanSigned 0xFFFFFFFF#32 0#32 = 1#32 ∧ alu .setLessThanSigned 0x00010000#32 0#32 = 0#32 ∧
  alu .setLessThanUnsigned 0#32 1#32 = 1#32 ∧ alu .setLessThanUnsigned 0#32 0#32 = 0#32 ∧
  alu .setLessThanUnsigned 0x80000000#32 1#32 = 0#32 ∧ alu .setLessThanUnsigned 5#32 0xFFFFFFFF#32 = 1#32

/-- R173: the predicate table on the integers the Words stand for, the three pairs of complements, the two constant
predicates that read no operand, and the Branch record with NeverTaken, which falls through. -/
def Obligations.PredicateTable : Prop :=
  (∀ a b : Word,
    (pred .equal a b = true ↔ a = b) ∧ (pred .notEqual a b = true ↔ a ≠ b) ∧
    (pred .lessSigned a b = true ↔ a.toInt < b.toInt) ∧ (pred .greaterOrEqualSigned a b = true ↔ b.toInt ≤ a.toInt) ∧
    (pred .lessUnsigned a b = true ↔ a.toNat < b.toNat) ∧
    (pred .greaterOrEqualUnsigned a b = true ↔ b.toNat ≤ a.toNat) ∧
    pred .alwaysTaken a b = true ∧ pred .neverTaken a b = false ∧
    pred .notEqual a b = (!pred .equal a b) ∧ pred .greaterOrEqualSigned a b = (!pred .lessSigned a b) ∧
    pred .greaterOrEqualUnsigned a b = (!pred .lessUnsigned a b)) ∧
  (∀ r : InstructionRecord, (r.branchOp = some .alwaysTaken → controlTaken r = some true) ∧
    (r.branchOp = some .neverTaken → controlTaken r = some false)) ∧
  (∀ (rs1 rs2 : RegIdx) (offset : BitVec 13) (s : State),
    ∃ t, runRecord (recordBranch .neverTaken rs1 rs2 offset) s = .next t ∧ TransferStep s t (displaced s.pc 4))

/-! ## Results and frames of the ALU instructions (41_alu.md) -/

/-- ADD and SUB (R129, R130, R131): they complete in every state, with the wrapped sum or difference in `rd`, `pc + 4`,
one retirement, and nothing else changed; and their words decode to them. -/
def Obligations.AddSubComplete : Prop :=
  (∀ (rd rs1 rs2 : RegIdx) (s : State),
    Yields (.add rd rs1 rs2) s rd .add (s.readReg rs1) (s.readReg rs2) ∧
    Yields (.sub rd rs1 rs2) s rd .sub (s.readReg rs1) (s.readReg rs2)) ∧
  RowDecodes 0x00000033#32 0xFE00707F#32 (fun w => .add (w.extractLsb 11 7) (w.extractLsb 19 15) (w.extractLsb 24 20)) ∧
  RowDecodes 0x40000033#32 0xFE00707F#32 (fun w => .sub (w.extractLsb 11 7) (w.extractLsb 19 15) (w.extractLsb 24 20))

/-- XOR, OR and AND (R129, R135, R138, R139): they complete in every state, with the bitwise result in `rd`, and nothing
else changed; and their words decode to them. -/
def Obligations.LogicComplete : Prop :=
  (∀ (rd rs1 rs2 : RegIdx) (s : State),
    Yields (.xor rd rs1 rs2) s rd .xor (s.readReg rs1) (s.readReg rs2) ∧
    Yields (.or rd rs1 rs2) s rd .or (s.readReg rs1) (s.readReg rs2) ∧
    Yields (.and rd rs1 rs2) s rd .and (s.readReg rs1) (s.readReg rs2)) ∧
  RowDecodes 0x00004033#32 0xFE00707F#32 (fun w => .xor (w.extractLsb 11 7) (w.extractLsb 19 15) (w.extractLsb 24 20)) ∧
  RowDecodes 0x00006033#32 0xFE00707F#32 (fun w => .or (w.extractLsb 11 7) (w.extractLsb 19 15) (w.extractLsb 24 20)) ∧
  RowDecodes 0x00007033#32 0xFE00707F#32 (fun w => .and (w.extractLsb 11 7) (w.extractLsb 19 15) (w.extractLsb 24 20))

/-- SLL, SRL and SRA (R129, R132, R136, R137): they complete in every state, shifting by the low 5 bits of `x[rs2]`, and
nothing else changed; and their words decode to them. -/
def Obligations.ShiftsComplete : Prop :=
  (∀ (rd rs1 rs2 : RegIdx) (s : State),
    Yields (.sll rd rs1 rs2) s rd .shiftLeftLogical (s.readReg rs1) (s.readReg rs2) ∧
    Yields (.srl rd rs1 rs2) s rd .shiftRightLogical (s.readReg rs1) (s.readReg rs2) ∧
    Yields (.sra rd rs1 rs2) s rd .shiftRightArithmetic (s.readReg rs1) (s.readReg rs2)) ∧
  RowDecodes 0x00001033#32 0xFE00707F#32 (fun w => .sll (w.extractLsb 11 7) (w.extractLsb 19 15) (w.extractLsb 24 20)) ∧
  RowDecodes 0x00005033#32 0xFE00707F#32 (fun w => .srl (w.extractLsb 11 7) (w.extractLsb 19 15) (w.extractLsb 24 20)) ∧
  RowDecodes 0x40005033#32 0xFE00707F#32 (fun w => .sra (w.extractLsb 11 7) (w.extractLsb 19 15) (w.extractLsb 24 20))

/-- SLT and SLTU (R129, R133, R134): they complete in every state, with 1 or 0 in `rd`, and nothing else changed; and
their words decode to them. -/
def Obligations.CompareComplete : Prop :=
  (∀ (rd rs1 rs2 : RegIdx) (s : State),
    Yields (.slt rd rs1 rs2) s rd .setLessThanSigned (s.readReg rs1) (s.readReg rs2) ∧
    Yields (.sltu rd rs1 rs2) s rd .setLessThanUnsigned (s.readReg rs1) (s.readReg rs2)) ∧
  RowDecodes 0x00002033#32 0xFE00707F#32 (fun w => .slt (w.extractLsb 11 7) (w.extractLsb 19 15) (w.extractLsb 24 20)) ∧
  RowDecodes 0x00003033#32 0xFE00707F#32 (fun w => .sltu (w.extractLsb 11 7) (w.extractLsb 19 15) (w.extractLsb 24 20))

/-- ADDI, XORI, ORI and ANDI (R129, R140, R143, R144, R145): they complete in every state, with the immediate
sign-extended, and nothing else changed; and their words decode to them. -/
def Obligations.ImmediateArithmeticComplete : Prop :=
  (∀ (rd rs1 : RegIdx) (imm : BitVec 12) (s : State),
    Yields (.addi rd rs1 imm) s rd .add (s.readReg rs1) (BitVec.ofInt 32 imm.toInt) ∧
    Yields (.xori rd rs1 imm) s rd .xor (s.readReg rs1) (BitVec.ofInt 32 imm.toInt) ∧
    Yields (.ori rd rs1 imm) s rd .or (s.readReg rs1) (BitVec.ofInt 32 imm.toInt) ∧
    Yields (.andi rd rs1 imm) s rd .and (s.readReg rs1) (BitVec.ofInt 32 imm.toInt)) ∧
  RowDecodes 0x00000013#32 0x0000707F#32 (fun w => .addi (w.extractLsb 11 7) (w.extractLsb 19 15) (w.extractLsb 31 20)) ∧
  RowDecodes 0x00004013#32 0x0000707F#32 (fun w => .xori (w.extractLsb 11 7) (w.extractLsb 19 15) (w.extractLsb 31 20)) ∧
  RowDecodes 0x00006013#32 0x0000707F#32 (fun w => .ori (w.extractLsb 11 7) (w.extractLsb 19 15) (w.extractLsb 31 20)) ∧
  RowDecodes 0x00007013#32 0x0000707F#32 (fun w => .andi (w.extractLsb 11 7) (w.extractLsb 19 15) (w.extractLsb 31 20))

/-- SLTI and SLTIU (R129, R141, R142): they complete in every state; the immediate is sign-extended for both, and SLTIU
compares the sign-extended Word unsigned; nothing else changed; and their words decode to them. -/
def Obligations.ImmediateCompareComplete : Prop :=
  (∀ (rd rs1 : RegIdx) (imm : BitVec 12) (s : State),
    Yields (.slti rd rs1 imm) s rd .setLessThanSigned (s.readReg rs1) (BitVec.ofInt 32 imm.toInt) ∧
    Yields (.sltiu rd rs1 imm) s rd .setLessThanUnsigned (s.readReg rs1) (BitVec.ofInt 32 imm.toInt)) ∧
  RowDecodes 0x00002013#32 0x0000707F#32 (fun w => .slti (w.extractLsb 11 7) (w.extractLsb 19 15) (w.extractLsb 31 20)) ∧
  RowDecodes 0x00003013#32 0x0000707F#32 (fun w => .sltiu (w.extractLsb 11 7) (w.extractLsb 19 15) (w.extractLsb 31 20))

/-- SLLI, SRLI and SRAI (R129, R146, R147, R148): they complete in every state, shifting by the 5-bit amount, and nothing
else changed; and their words decode to them. -/
def Obligations.ImmediateShiftsComplete : Prop :=
  (∀ (rd rs1 : RegIdx) (shamt : BitVec 5) (s : State),
    Yields (.slli rd rs1 shamt) s rd .shiftLeftLogical (s.readReg rs1) (BitVec.ofNat 32 shamt.toNat) ∧
    Yields (.srli rd rs1 shamt) s rd .shiftRightLogical (s.readReg rs1) (BitVec.ofNat 32 shamt.toNat) ∧
    Yields (.srai rd rs1 shamt) s rd .shiftRightArithmetic (s.readReg rs1) (BitVec.ofNat 32 shamt.toNat)) ∧
  RowDecodes 0x00001013#32 0xFE00707F#32 (fun w => .slli (w.extractLsb 11 7) (w.extractLsb 19 15) (w.extractLsb 24 20)) ∧
  RowDecodes 0x00005013#32 0xFE00707F#32 (fun w => .srli (w.extractLsb 11 7) (w.extractLsb 19 15) (w.extractLsb 24 20)) ∧
  RowDecodes 0x40005013#32 0xFE00707F#32 (fun w => .srai (w.extractLsb 11 7) (w.extractLsb 19 15) (w.extractLsb 24 20))

/-- LUI (R150) and AUIPC (44_auipc_csr.md R190): they complete in every state, with the 20-bit field times 2^12, or that
plus the pc of the instruction itself modulo 2^32, in `rd`; nothing else changed; and their words decode to them. -/
def Obligations.UpperImmediatesComplete : Prop :=
  (∀ (rd : RegIdx) (imm20 : BitVec 20) (s : State),
    (∃ t v, exec (.lui rd imm20) s = .next t ∧ v.toNat = imm20.toNat * 2 ^ 12 ∧
      RegisterStep s t rd v (displaced s.pc 4)) ∧
    (∃ t v, exec (.auipc rd imm20) s = .next t ∧ v.toNat = (s.pc.toNat + imm20.toNat * 2 ^ 12) % 2 ^ 32 ∧
      RegisterStep s t rd v (displaced s.pc 4))) ∧
  RowDecodes 0x00000037#32 0x0000007F#32 (fun w => .lui (w.extractLsb 11 7) (w.extractLsb 31 12)) ∧
  RowDecodes 0x00000017#32 0x0000007F#32 (fun w => .auipc (w.extractLsb 11 7) (w.extractLsb 31 12))

/-! ## Load and store (42_load_store.md, 20_memory.md) -/

/-- LW (R160, R161, 20_memory.md R42): where the address, computed modulo 2^32, is a multiple of 4 in MEM_VALID it
completes with the little-endian word in `rd` and nothing else changed; elsewhere it is Fault(LoadFailure), for
`rd = x0` too; and its words decode to it. -/
def Obligations.LoadWordResult : Prop :=
  (∀ (rd rs1 : RegIdx) (imm : BitVec 12) (s : State),
    let a := s.effectiveAddress rs1 imm
    a = displaced (s.readReg rs1) imm.toInt ∧
    (InMemory s a → ∃ t v, exec (.lw rd rs1 imm) s = .next t ∧
      v.toNat = (s.readByte a).toNat + 2 ^ 8 * (s.readByte (displaced a 1)).toNat +
        2 ^ 16 * (s.readByte (displaced a 2)).toNat + 2 ^ 24 * (s.readByte (displaced a 3)).toNat ∧
      RegisterStep s t rd v (displaced s.pc 4)) ∧
    (¬InMemory s a → exec (.lw rd rs1 imm) s = .fault .loadFailure)) ∧
  RowDecodes 0x00002003#32 0x0000707F#32 (fun w => .lw (w.extractLsb 11 7) (w.extractLsb 19 15) (w.extractLsb 31 20))

/-- SW (R160, R162, 20_memory.md R42): where the address is a multiple of 4 in MEM_VALID it completes with the four bytes
of the unmodified `x[rs2]` at it, little-endian, every other byte, every register and the host queue unchanged; elsewhere
it is Fault(StoreFailure); and its words decode to it. The memory is in canonical form, which `EveryStepKeepsTheInvariant`
keeps. -/
def Obligations.StoreWordResult : Prop :=
  (∀ (rs1 rs2 : RegIdx) (imm : BitVec 12) (s : State), s.mem.wf →
    let a := s.effectiveAddress rs1 imm
    a = displaced (s.readReg rs1) imm.toInt ∧
    (InMemory s a → ∃ t, exec (.sw rs1 rs2 imm) s = .next t ∧
      Retires s t (displaced s.pc 4) ∧ SameRegisters s t ∧ t.hostQueue = s.hostQueue ∧
      (∀ k : Nat, k < 4 → (t.readByte (displaced a k)).toNat = (s.readReg rs2).toNat / 2 ^ (8 * k) % 2 ^ 8) ∧
      (∀ b : Word, (∀ k : Nat, k < 4 → b ≠ displaced a k) → t.readByte b = s.readByte b)) ∧
    (¬InMemory s a → exec (.sw rs1 rs2 imm) s = .fault .storeFailure)) ∧
  RowDecodes 0x00002023#32 0x0000707F#32
    (fun w => .sw (w.extractLsb 19 15) (w.extractLsb 24 20) (w.extractLsb 31 25 ++ w.extractLsb 11 7))

/-- A load returns the value of the latest store to that word, and a load of another word what it returned before
(20_memory.md R44, R48). -/
def Obligations.LoadAfterStore : Prop :=
  ∀ (rs1 rs2 : RegIdx) (imm : BitVec 12) (s t : State), s.mem.wf → exec (.sw rs1 rs2 imm) s = .next t →
    (∀ (rd rs : RegIdx) (imm' : BitVec 12), rd ≠ 0#5 →
      t.effectiveAddress rs imm' = s.effectiveAddress rs1 imm →
      ∃ u, exec (.lw rd rs imm') t = .next u ∧ u.readReg rd = s.readReg rs2) ∧
    (∀ (rd rs : RegIdx) (imm' : BitVec 12), InMemory t (t.effectiveAddress rs imm') →
      t.effectiveAddress rs imm' ≠ s.effectiveAddress rs1 imm →
      ∃ u v, exec (.lw rd rs imm') t = .next u ∧ exec (.lw rd rs imm') s = .next v ∧ u.readReg rd = v.readReg rd)

/-- 20_memory.md R52: "A store is seen by every later instruction fetch": any state with the memory that a SW left
fetches the stored word at the stored address, and where the very next step fetches there it runs the stored
instruction. -/
def Obligations.FetchSeesTheStore : Prop :=
  ∀ (rs1 rs2 : RegIdx) (imm : BitVec 12) (s t : State), s.mem.wf → exec (.sw rs1 rs2 imm) s = .next t →
    (∀ u : State, u.mem = t.mem → u.memValid = t.memValid → u.pc = s.effectiveAddress rs1 imm →
      u.fetch = .ok (s.readReg rs2)) ∧
    (∀ i : Instr, t.runState = .running → t.pc = s.effectiveAddress rs1 imm → decode (s.readReg rs2) = .ok i →
      step t = exec i t)

/-- 20_memory.md R49: a SW to the address of its own instruction word does not change the instruction being executed; it
changes what a later fetch of that address returns. -/
def Obligations.StoreToItsOwnAddress : Prop :=
  ∀ (rs1 rs2 : RegIdx) (imm : BitVec 12) (s : State), s.mem.wf → s.runState = .running →
    s.fetch = .ok (encode (.sw rs1 rs2 imm)) → s.effectiveAddress rs1 imm = s.pc →
    ∃ t, step s = .next t ∧ t.pc = displaced s.pc 4 ∧
      ∀ u : State, u.mem = t.mem → u.memValid = t.memValid → u.pc = s.pc → u.fetch = .ok (s.readReg rs2)

/-- Two memories in canonical form that read the same at every address are equal data (20_memory.md R40; the form is the
model's own). -/
def Obligations.CanonicalMemoryIsDetermined : Prop :=
  ∀ m m' : Memory, m.wf → m'.wf → (∀ a : Word, m.get a.toNat = m'.get a.toNat) → m = m'

/-! ## Branches and jumps (43_control_transfer.md) -/

/-- BEQ, BNE, BLT, BGE, BLTU and BGEU (R170, R173 to R179, R182): they complete in every state, to `pc + immB` modulo 2^32
when the comparison holds and to `pc + 4` when it does not, and change nothing else; and their words decode to them. -/
def Obligations.BranchesComplete : Prop :=
  (∀ (rs1 rs2 : RegIdx) (offset : BitVec 13) (s : State),
    let a := s.readReg rs1
    let b := s.readReg rs2
    Branches (.beq rs1 rs2 offset) s (a = b) offset ∧ Branches (.bne rs1 rs2 offset) s (a ≠ b) offset ∧
    Branches (.blt rs1 rs2 offset) s (a.toInt < b.toInt) offset ∧
    Branches (.bge rs1 rs2 offset) s (b.toInt ≤ a.toInt) offset ∧
    Branches (.bltu rs1 rs2 offset) s (a.toNat < b.toNat) offset ∧
    Branches (.bgeu rs1 rs2 offset) s (b.toNat ≤ a.toNat) offset) ∧
  (let offset (w : Word) : BitVec 13 :=
      w.extractLsb 31 31 ++ w.extractLsb 7 7 ++ w.extractLsb 30 25 ++ w.extractLsb 11 8 ++ 0#1;
    RowDecodes 0x00000063#32 0x0000707F#32 (fun w => .beq (w.extractLsb 19 15) (w.extractLsb 24 20) (offset w)) ∧
    RowDecodes 0x00001063#32 0x0000707F#32 (fun w => .bne (w.extractLsb 19 15) (w.extractLsb 24 20) (offset w)) ∧
    RowDecodes 0x00004063#32 0x0000707F#32 (fun w => .blt (w.extractLsb 19 15) (w.extractLsb 24 20) (offset w)) ∧
    RowDecodes 0x00005063#32 0x0000707F#32 (fun w => .bge (w.extractLsb 19 15) (w.extractLsb 24 20) (offset w)) ∧
    RowDecodes 0x00006063#32 0x0000707F#32 (fun w => .bltu (w.extractLsb 19 15) (w.extractLsb 24 20) (offset w)) ∧
    RowDecodes 0x00007063#32 0x0000707F#32 (fun w => .bgeu (w.extractLsb 19 15) (w.extractLsb 24 20) (offset w)))

/-- JAL (R180): it completes in every state, with `pc + 4` in `rd` and the pc at `pc + immJ` modulo 2^32, both from the pc
of the JAL itself, and nothing else changed; and its words decode to it. -/
def Obligations.JumpAndLinkComplete : Prop :=
  (∀ (rd : RegIdx) (offset : BitVec 21) (s : State), ∃ t, exec (.jal rd offset) s = .next t ∧
    RegisterStep s t rd (displaced s.pc 4) (displaced s.pc offset.toInt)) ∧
  RowDecodes 0x0000006F#32 0x0000007F#32 (fun w => .jal (w.extractLsb 11 7)
    (w.extractLsb 31 31 ++ w.extractLsb 19 12 ++ w.extractLsb 20 20 ++ w.extractLsb 30 21 ++ 0#1))

/-- JALR (R181): it completes in every state, with `pc + 4` in `rd` and the pc at the OLD `x[rs1] + immI` modulo 2^32, all
32 bits, bit 0 not cleared, and nothing else changed; and its words decode to it. -/
def Obligations.JumpRegisterComplete : Prop :=
  (∀ (rd rs1 : RegIdx) (imm : BitVec 12) (s : State), ∃ t, exec (.jalr rd rs1 imm) s = .next t ∧
    RegisterStep s t rd (displaced s.pc 4) (displaced (s.readReg rs1) imm.toInt)) ∧
  RowDecodes 0x00000067#32 0x0000707F#32 (fun w => .jalr (w.extractLsb 11 7) (w.extractLsb 19 15) (w.extractLsb 31 20))

/-- R171: a transfer to a target that is not a multiple of 4 completes and the next step is Fault(FetchFailure) with the
pc at that target; a branch or JAL from a 4-aligned pc reaches 0 or 2 modulo 4; JALR can reach any value. -/
def Obligations.MisalignedTargetFaultsNextFetch : Prop :=
  (∀ s t : State, step s = .next t → t.pc.toNat % 4 ≠ 0 → step t = .fault .fetchFailure) ∧
  (∀ (i : Instr) (s t : State), i.wellFormed = true → s.pc.toNat % 4 = 0 → exec i s = .next t →
    (∀ rd rs1 imm, i ≠ .jalr rd rs1 imm) → t.pc.toNat % 4 = 0 ∨ t.pc.toNat % 4 = 2) ∧
  (∀ (target : Word) (rd rs1 : RegIdx) (imm : BitVec 12) (s : State), rs1 ≠ 0#5 →
    ∃ (v : Word) (t : State), exec (.jalr rd rs1 imm) (s.writeReg rs1 v) = .next t ∧ t.pc = target)

/-! ## CSRs and the host channel (44_auipc_csr.md, 10_state.md) -/

/-- CSRR of the counters (R191, 10_state.md R22 to R24): it completes with the value before this instruction is counted in
`rd`, the CSR unchanged but for that count, and nothing else changed; an unimplemented index is Fault(CsrFailure), for
`rd = x0` too; and its words decode to it. -/
def Obligations.CsrReadResult : Prop :=
  (∀ (rd : RegIdx) (csr : CsrIdx) (s : State),
    (csr = 0xC00#12 → ∃ t, exec (.csrr rd csr) s = .next t ∧ RegisterStep s t rd s.csrCycle (displaced s.pc 4)) ∧
    (csr = 0xC02#12 → ∃ t, exec (.csrr rd csr) s = .next t ∧ RegisterStep s t rd s.csrInstret (displaced s.pc 4)) ∧
    (csr ≠ 0xC00#12 ∧ csr ≠ 0xC02#12 ∧ csr ≠ 0x780#12 → exec (.csrr rd csr) s = .fault .csrFailure)) ∧
  RowDecodes 0x00002073#32 0x000FF07F#32 (fun w => .csrr (w.extractLsb 11 7) (w.extractLsb 31 20))

/-- CSRR of `tohost` (10_state.md R21): it completes and reads 0, and no message is taken or sent. The value 0 is rule R21's
own (decision D11) and U9 asks that a claim about a program take it as any value: it is this one statement that rests on
it, see log entry 8. -/
def Obligations.CsrReadOfTohost : Prop :=
  ∀ (rd : RegIdx) (s : State), ∃ t, exec (.csrr rd 0x780#12) s = .next t ∧
    RegisterStep s t rd 0#32 (displaced s.pc 4)

/-- CSRW (R192, 10_state.md R21 to R24): a write to `tohost` completes, appends `x[rs1]`, all 32 bits, to the tail of
`host_queue`, and changes nothing else; a write to any other index is Fault(CsrFailure); and its words decode to it. -/
def Obligations.CsrWriteResult : Prop :=
  (∀ (csr : CsrIdx) (rs1 : RegIdx) (s : State),
    (csr = 0x780#12 → ∃ t, exec (.csrw csr rs1) s = .next t ∧ Retires s t (displaced s.pc 4) ∧ SameRegisters s t ∧
      SameMemory s t ∧ t.hostQueue = s.hostQueue ++ [s.readReg rs1]) ∧
    (csr ≠ 0x780#12 → exec (.csrw csr rs1) s = .fault .csrFailure)) ∧
  RowDecodes 0x00001073#32 0x00007FFF#32 (fun w => .csrw (w.extractLsb 31 20) (w.extractLsb 19 15))

/-- 10_state.md R33: polling as often as there are messages returns each exactly once, oldest first, and leaves an empty
queue, of which a poll is absent; a poll changes nothing but the queue. -/
def Obligations.PollsDrainInOrder : Prop :=
  ∀ s : State,
    (pollMany s.hostQueue.length s).1 = s.hostQueue.map some ∧
    (pollMany s.hostQueue.length s).2 = { s with hostQueue := [] } ∧
    pollHostMessage { s with hostQueue := [] } = (none, { s with hostQueue := [] })

/-- 10_state.md R21 and R33 (V8): after a CSRW to `tohost` on an empty queue, the next poll returns the written payload
and the one after is absent. -/
def Obligations.PayloadIsPolledExactlyOnce : Prop :=
  ∀ (rs1 : RegIdx) (s : State), s.hostQueue = [] → ∃ t, exec (.csrw 0x780#12 rs1) s = .next t ∧
    (pollMany 3 t).1 = [some (s.readReg rs1), none, none]

/-- R23: `instret` is 0 after reset; every completed step adds one modulo 2^32; a CSRR of `instret` executed as the n-th
step after reset returns n - 1 (here `n` counts the steps before it) and has no side effect; a write of it is a failure. -/
def Obligations.InstretOfTheNthStep : Prop :=
  (∀ (a : Word) (s : State), (hostReset a s).csrInstret = 0#32) ∧
  (∀ s t : State, step s = .next t → t.csrInstret.toNat = (s.csrInstret.toNat + 1) % 2 ^ 32) ∧
  (∀ (a : Word) (s t u : State) (n : Nat) (w : Word) (rd : RegIdx),
    core.run n (hostReset a s) = .next t → t.fetch = .ok w → decode w = .ok (.csrr rd 0xC02#12) →
    step t = .next u → RegisterStep t u rd (BitVec.ofNat 32 n) (displaced t.pc 4)) ∧
  (∀ (rs1 : RegIdx) (s : State), exec (.csrw 0xC02#12 rs1) s = .fault .csrFailure)

/-- 60_exceptions.md R213, 10_state.md R22: from any state, n completed steps add n to both counters, modulo 2^32. -/
def Obligations.CountersCountCompletedSteps : Prop :=
  ∀ (n : Nat) (s t : State), core.run n s = .next t →
    t.csrCycle = s.csrCycle + BitVec.ofNat 32 n ∧ t.csrInstret = s.csrInstret + BitVec.ofNat 32 n

/-! ## The step (40_step_and_decode.md, 60_exceptions.md) -/

/-- R90: in Running, where the four bytes at the pc, lowest address first, decode to an instruction, the step is that
instruction's own meaning at this state. Nothing else happens around it. -/
def Obligations.StepRunsTheDecodedInstruction : Prop :=
  ∀ (s : State) (i : Instr), s.runState = .running → InMemory s s.pc →
    decodeBytes [s.readByte s.pc, s.readByte (displaced s.pc 1), s.readByte (displaced s.pc 2),
      s.readByte (displaced s.pc 3)] = .ok (i, []) →
    step s = exec i s

/-- R201, R206: the stops of a step before its instruction runs, in stage order: state Reset, whatever the pc; a pc that
is misaligned or outside MEM_VALID, whatever the word there; an illegal word (R202). -/
def Obligations.StopsInStageOrder : Prop :=
  ∀ s : State,
    (s.runState = .inReset → step s = .refused .stepBeforeReset) ∧
    (s.runState = .running ∧ ¬InMemory s s.pc → step s = .fault .fetchFailure) ∧
    (s.runState = .running ∧ InMemory s s.pc → ∀ c, decode (s.mem.getWord s.pc) = .error c →
      step s = .refused (.illegalWord c (s.mem.getWord s.pc)))

/-- A step in Running with a decodable word at a pc in memory is safe for every instruction but LW, SW, CSRR and CSRW:
the only way it can fail is the fetch (41_alu.md R129, 43_control_transfer.md R182). -/
def Obligations.OnlyMemoryAndCsrCanFault : Prop :=
  ∀ (s : State) (i : Instr), s.runState = .running → InMemory s s.pc → decode (s.mem.getWord s.pc) = .ok i →
    (∀ rd rs1 imm, i ≠ .lw rd rs1 imm) → (∀ rs1 rs2 imm, i ≠ .sw rs1 rs2 imm) → (∀ rd csr, i ≠ .csrr rd csr) →
    (∀ csr rs1, i ≠ .csrw csr rs1) → s.SafeStep

/-- R104, R203: every completed step, from Running, retires exactly one instruction in both counters, stays in Running and
leaves MEM_VALID alone. -/
def Obligations.EveryStepRetiresOne : Prop :=
  ∀ s t : State, step s = .next t →
    s.runState = .running ∧ t.runState = .running ∧ t.csrCycle = s.csrCycle + 1#32 ∧
    t.csrInstret = s.csrInstret + 1#32 ∧ t.memValid = s.memValid

/-- 10_state.md R16, R100: every completed instruction's next pc is `pc + 4`, except a taken branch, JAL and JALR, whose
target it is. -/
def Obligations.NextPcOfEveryInstruction : Prop :=
  ∀ (i : Instr) (s t : State), exec i s = .next t →
    match i with
    | .beq rs1 rs2 o => t.pc = if s.readReg rs1 = s.readReg rs2 then displaced s.pc o.toInt else displaced s.pc 4
    | .bne rs1 rs2 o => t.pc = if s.readReg rs1 = s.readReg rs2 then displaced s.pc 4 else displaced s.pc o.toInt
    | .blt rs1 rs2 o =>
      t.pc = if (s.readReg rs1).toInt < (s.readReg rs2).toInt then displaced s.pc o.toInt else displaced s.pc 4
    | .bge rs1 rs2 o =>
      t.pc = if (s.readReg rs1).toInt < (s.readReg rs2).toInt then displaced s.pc 4 else displaced s.pc o.toInt
    | .bltu rs1 rs2 o =>
      t.pc = if (s.readReg rs1).toNat < (s.readReg rs2).toNat then displaced s.pc o.toInt else displaced s.pc 4
    | .bgeu rs1 rs2 o =>
      t.pc = if (s.readReg rs1).toNat < (s.readReg rs2).toNat then displaced s.pc 4 else displaced s.pc o.toInt
    | .jal _ o => t.pc = displaced s.pc o.toInt
    | .jalr _ rs1 imm => t.pc = displaced (s.readReg rs1) imm.toInt
    | _ => t.pc = displaced s.pc 4

/-- 10_state.md R12, R13: a completed instruction writes no general register but the one the "writes" column lists for it,
and x0 reads 0 before and after. -/
def Obligations.WritesOnlyTheDestination : Prop :=
  ∀ (i : Instr) (s t : State), exec i s = .next t →
    (∀ r, destination i ≠ some r → t.readReg r = s.readReg r) ∧ s.readReg 0#5 = 0#32 ∧ t.readReg 0#5 = 0#32

/-- 10_state.md R13: "No instruction reads a register it does not list": in two states that differ in general registers
alone and agree on the listed ones, an instruction has the same outcome, the same result in its destination, and the same
effect on the pc, the counters, the host queue and memory. -/
def Obligations.ReadsOnlyTheSources : Prop :=
  ∀ (i : Instr) (s s' : State), SameButRegisters s s' → (∀ r ∈ sources i, s'.readReg r = s.readReg r) →
    (∀ t, exec i s = .next t → ∃ t', exec i s' = .next t' ∧ SameButRegisters t t' ∧
      ∀ r, destination i = some r → t'.readReg r = t.readReg r) ∧
    (∀ f, exec i s = .fault f → exec i s' = .fault f)

/-- 20_memory.md R40: "Nothing but SW changes mem while the core runs". -/
def Obligations.OnlyStoresChangeMemory : Prop :=
  ∀ (i : Instr) (s t : State), exec i s = .next t → (∀ rs1 rs2 imm, i ≠ .sw rs1 rs2 imm) → t.mem = s.mem

/-- R103, 90_conflicts.md C7: only a CSRW to `tohost` sends a message; a CSRR writes nothing back to its CSR. -/
def Obligations.OnlyCsrwSendsMessages : Prop :=
  ∀ (i : Instr) (s t : State), exec i s = .next t →
    t.hostQueue = s.hostQueue ∨ ∃ rs1, i = .csrw 0x780#12 rs1 ∧ t.hostQueue = s.hostQueue ++ [s.readReg rs1]

/-- R101: which result fields are defined after the execute stage, and their values, for the record of every
instruction. -/
def Obligations.ExecutedRecordFields : Prop :=
  ∀ (i : Instr) (s : State) (r : InstructionRecord), readCsrStage (readOperands (recordOf i) s) s = .ok r →
    let e := execute r s.pc
    (e.data = none ↔ e.kind = .branch ∨ e.kind = .load) ∧
    (e.address = none ↔ ¬(e.kind = .load ∨ e.kind = .store)) ∧
    (e.kind = .alu → ∃ op a b v, e.aluOp = some op ∧ e.src1Value = some a ∧ e.immediate.or e.src2Value = some b ∧
      e.data = some v ∧ AluTable op a b v) ∧
    (e.kind = .load ∨ e.kind = .store → ∃ a b, e.src1Value = some a ∧ e.immediate = some b ∧ e.address = some (a + b)) ∧
    (e.kind = .store → e.data = e.src2Value) ∧
    (e.kind = .jump ∨ e.kind = .jumpRegister → e.data = some (s.pc + 4#32)) ∧
    (e.kind = .addUpperImmToPC → ∃ b, e.immediate = some b ∧ e.data = some (s.pc + b)) ∧
    (e.kind = .csrRead → e.data = e.csrValue) ∧ (e.kind = .csrWrite → e.data = e.src1Value) ∧
    (e.kind = .jump → ∃ b, e.immediate = some b ∧ e.nextProgramCounter = some (s.pc + b)) ∧
    (e.kind = .jumpRegister → ∃ a b, e.src1Value = some a ∧ e.immediate = some b ∧ e.nextProgramCounter = some (a + b)) ∧
    (e.kind = .branch → ∃ b, e.immediate = some b ∧
      (e.nextProgramCounter = some (s.pc + b) ∨ e.nextProgramCounter = some (s.pc + 4#32))) ∧
    (e.kind ≠ .jump ∧ e.kind ≠ .jumpRegister ∧ e.kind ≠ .branch → e.nextProgramCounter = some (s.pc + 4#32))

/-- The spec's two descriptions of execution agree: the step over the InstructionRecord (R90, R94 to R105) is the step of
the per-instruction rules (41_alu.md to 44_auipc_csr.md), in every state and with every outcome. -/
def Obligations.RecordStepEqualsStep : Prop :=
  ∀ s : State, stepByRecord s = step s

/-! ## The invariant -/

/-- From every state that meets the invariant (memory in canonical form, the slot of x0 zero, `cycle` equal to
`instret`: 10_state.md R12, R22), a completed step gives a state that meets it. -/
def Obligations.EveryStepKeepsTheInvariant : Prop :=
  ∀ s t : State, s.Inv → step s = .next t → t.Inv

/-- The invariant holds at `State.reset`, and right after `reset(startAddress)` from every state whose memory is in
canonical form and whose slot of x0 is zero (10_state.md R35). -/
def Obligations.ResetHasTheInvariant : Prop :=
  State.reset.Inv ∧ ∀ (a : Word) (s : State), s.mem.wf → s.regs[0] = 0#32 → (hostReset a s).Inv

/-- The host's own moves, in any order, keep the invariant (60_exceptions.md R215). -/
def Obligations.HostMovesKeepTheInvariant : Prop :=
  ∀ (m : HostMove) (s t : State), s.Inv → hostMove m s = .next t → t.Inv

/-! ## Reset, the host and the clock (70_reset_and_hazards.md, 60_exceptions.md) -/

/-- 70_reset_and_hazards.md R230, R231, 10_state.md R35: `reset(startAddress)`, in either state, sets the pc to its
argument unchecked, clears the counters and the queue, moves to Running, and touches nothing else; in a clock cycle with
`reset_req` it has priority over `step_en` and pulses `csr_reset`. -/
def Obligations.ResetEffects : Prop :=
  ∀ (a : Word) (s : State),
    (let t := hostReset a s;
      t.pc = a ∧ t.runState = .running ∧ t.csrCycle = 0#32 ∧ t.csrInstret = 0#32 ∧ t.hostQueue = [] ∧
      SameRegisters s t ∧ t.mem = s.mem ∧ t.memValid = s.memValid) ∧
    ∀ stepEn : Bool, ∃ p : Ports,
      cycle { resetReq := true, startAddress := a, stepEn := stepEn, hostPoll := false } s = .next (hostReset a s, p) ∧
      p.csrReset = true ∧ p.csrRetire = false ∧ p.rfWrite = none ∧ p.csrWrite = none ∧ p.dmemWrite = none

/-- `State.reset` is the power-on state after `reset(START_ADDRESS)` (10_state.md R35). The values of START_ADDRESS, of
x1 to x31, of MEM_VALID and of unlisted memory are the model's: log entries 1 to 4. -/
def Obligations.ResetStateIsTheFirstReset : Prop :=
  State.reset = hostReset Config.startAddress State.powerOn ∧ State.powerOn.runState = .inReset ∧
  State.reset.readReg 0#5 = 0#32 ∧ State.reset.mem.wf

/-- R92, R93, R202, R203: in a clock cycle whose step does not complete nothing changes, every write enable is low, and
`fault` or `illegal` is raised; the same in a cycle in state Reset, where `step_en` is ignored (R106). -/
def Obligations.FailedCycleChangesNothing : Prop :=
  ∀ (a : Word) (s : State),
    let inp : CycleInputs := { resetReq := false, startAddress := a, stepEn := true, hostPoll := false }
    let quiet (p : Ports) : Prop := p.imemAddr = s.pc ∧ p.rfWrite = none ∧ p.csrWrite = none ∧ p.csrRetire = false ∧
      p.dmemWrite = none ∧ p.csrReset = false ∧ p.hostMessage = none
    (∀ f, step s = .fault f → ∃ p, cycle inp s = .next (s, p) ∧ quiet p ∧ p.fault = true ∧ p.illegal = false) ∧
    (∀ c w, step s = .refused (.illegalWord c w) →
      ∃ p, cycle inp s = .next (s, p) ∧ quiet p ∧ p.fault = false ∧ p.illegal = true) ∧
    (s.runState = .inReset → ∃ p, cycle inp s = .next (s, p) ∧ quiet p ∧ p.fault = false ∧ p.illegal = false)

/-- R93: in a clock cycle whose step completes, the ports carry exactly the accesses of the instruction at the pc and
their effect is the step's: `rf_wen` with `destIndex` (x0 too, R77) and `data`, `csr_wen` for CSRW alone, the store for SW
alone, the data request for LW and SW alone, and the retirement. -/
def Obligations.CompletedCyclePorts : Prop :=
  ∀ (a : Word) (s t : State), step s = .next t → ∃ i r e u p,
    decode (s.mem.getWord s.pc) = .ok i ∧ readCsrStage (readOperands (recordOf i) s) s = .ok r ∧
    performAccess (execute r s.pc) s = .ok (e, u) ∧
    cycle { resetReq := false, startAddress := a, stepEn := true, hostPoll := false } s = .next (t, p) ∧
    p.imemAddr = s.pc ∧ p.fault = false ∧ p.illegal = false ∧ p.csrRetire = true ∧
    p.rfWrite = e.destIndex.bind (fun d => e.data.map fun v => (d, v)) ∧ p.rfWrite.map Prod.fst = destination i ∧
    p.csrWrite = csrWritten s i ∧ p.dmemReq = dataAddress s i ∧ p.dmemWrite = storedWord s i ∧
    (p.rfWrite = none → SameRegisters s t) ∧ (∀ rd v, p.rfWrite = some (rd, v) → WritesOnly s t rd v) ∧
    (p.csrWrite = none → t.hostQueue = s.hostQueue) ∧
    (∀ c v, p.csrWrite = some (c, v) → c = 0x780#12 ∧ t.hostQueue = s.hostQueue ++ [v]) ∧
    (p.dmemWrite = none → t.mem = s.mem) ∧
    (∀ v, p.dmemWrite = some v → ∃ b, p.dmemReq = some b ∧ t.mem = s.mem.setWord b v)

/-- R216: the polled run from a state with no pending message ends at the first poll that returns a message: the state
after that many completed steps holds that one message, and after every smaller number of steps there was none. -/
def Obligations.RunEndsAtTheFirstMessage : Prop :=
  ∀ (fuel : Nat) (s : State) (v : Word) (n : Nat) (t : State), s.hostQueue = [] →
    runUntilMessage fuel s = .message v n t →
    n ≤ fuel ∧ t.hostQueue = [] ∧ core.run n s = .next { t with hostQueue := [v] } ∧
    ∀ k, k < n → ∃ u, core.run k s = .next u ∧ u.hostQueue = []

/-- 70_reset_and_hazards.md R233: a program word that the host loads before `reset` is what the core fetches at
`startAddress`, and it is the first instruction to run. -/
def Obligations.LoadedProgramIsFetched : Prop :=
  ∀ (s : State) (a v : Word) (i : Instr), s.mem.wf → s.runState = .inReset → InMemory s a → decode v = .ok i →
    ∃ t, hostLoad [(a, v)] s = .next t ∧ step (hostReset a t) = exec i (hostReset a t)

/-- The host's withFetchWord (log entry 5: the model's own): the very next step runs the instruction of the word, in every
state whose memory is in canonical form. -/
def Obligations.PlacedWordIsRun : Prop :=
  ∀ (s : State) (w : Nat) (i : Instr), s.mem.wf → decodeTableWord 32 w = some i →
    step (s.withFetchWord 32 w) = exec i (s.withFetchWord 32 w)

/-- R93, row by row, in every clock cycle with whatever the host drives: `imem_addr` is the pc; `illegal` says that the
decoder refused `imem_rdata` in Running, stepping or not; `fault` is the failure signal of an access that the step really
makes; with either of them every write enable, the retirement and the pc update are suppressed; `csr_retire` is 1 where the
step completes; a stepping cycle asks for the reads and the data access of the decoded record, any other cycle for nothing
but the fetch; the register, CSR and data ports answer the requests; a poll removes the oldest message and changes nothing
else (10_state.md R33, R107); a cycle that neither steps nor resets nor polls changes nothing (70_reset_and_hazards.md
R237). That a cycle without a step asks for no access but the fetch is the model's reading, log entry 12; that `illegal`
does not wait for a step too, log entry 14; a poll in the cycle of a step or a reset, or in state Reset, is not a cycle the
model accepts, log entry 11. The writes of a step that completes are in `CompletedCyclePorts`. -/
def Obligations.PortsOfEveryCycle : Prop :=
  ∀ (inp : CycleInputs) (s t : State) (p : Ports), cycle inp s = .next (t, p) →
    let ans := answers inp s
    p.imemAddr = s.pc ∧ p.csrReset = inp.resetReq ∧
    p.hostMessage = (if inp.hostPoll then (pollHostMessage s).1 else none) ∧
    (InMemory s s.pc → ans.imemFail = false ∧ ans.imemRdata = some (s.mem.getWord s.pc)) ∧
    (¬InMemory s s.pc → ans.imemFail = true ∧ ans.imemRdata = none) ∧
    (p.illegal = true ↔ s.runState = .running ∧ ∃ w c, ans.imemRdata = some w ∧ decode w = .error c) ∧
    (p.fault = true ↔ inp.stepping s.runState = true ∧ (ans.imemFail || ans.csrFail || ans.dmemFail) = true) ∧
    (p.csrRetire = true ↔ inp.stepping s.runState = true ∧ p.illegal = false ∧ p.fault = false) ∧
    (p.illegal = true ∨ p.fault = true → p.rfWrite = none ∧ p.csrWrite = none ∧ p.csrRetire = false ∧
      p.dmemWrite = none ∧ (inp.resetReq = false → t.pc = s.pc)) ∧
    (∀ w i r, inp.stepping s.runState = true → ans.imemRdata = some w → decode w = .ok i → decodeRecord w = .ok r →
      AsksAsDecoded s i r p ans) ∧
    (inp.stepping s.runState = false ∨ p.illegal = true ∨ ans.imemFail = true → AsksForNothing p) ∧
    ans.rfRdata1 = p.rfRead1.map s.readReg ∧ ans.rfRdata2 = p.rfRead2.map s.readReg ∧
    ans.csrRdata = p.csrRead.bind (fun c => (s.readCsr c).toOption) ∧ (p.csrRead = none → ans.csrFail = false) ∧
    (∀ b, p.dmemReq = some b → (ans.dmemFail = true ↔ ¬InMemory s b) ∧
      (p.dmemWrite = none → InMemory s b → ans.dmemRdata = some (s.mem.getWord b))) ∧
    (p.dmemReq = none → ans.dmemFail = false) ∧
    (inp.hostPoll = true → t = (pollHostMessage s).2) ∧
    (inp.stepping s.runState = false ∧ inp.resetReq = false ∧ inp.hostPoll = false → t = s)
end

