-- ==== Sys2Proof/Laws/State.lean ====
section
/-! SUPPORT. One lemma per field per update of State, so that no later proof unfolds a record update. -/

namespace Sys2Proof.Machine

/-! ### storeWord -/

@[simp] theorem State.pc_storeWord (s : State) (a v : Word) : (s.storeWord a v).pc = s.pc := rfl
@[simp] theorem State.runState_storeWord (s : State) (a v : Word) : (s.storeWord a v).runState = s.runState := rfl
@[simp] theorem State.regs_storeWord (s : State) (a v : Word) : (s.storeWord a v).regs = s.regs := rfl
@[simp] theorem State.csrCycle_storeWord (s : State) (a v : Word) : (s.storeWord a v).csrCycle = s.csrCycle := rfl
@[simp] theorem State.csrInstret_storeWord (s : State) (a v : Word) : (s.storeWord a v).csrInstret = s.csrInstret := rfl
@[simp] theorem State.hostQueue_storeWord (s : State) (a v : Word) : (s.storeWord a v).hostQueue = s.hostQueue := rfl
@[simp] theorem State.mem_storeWord (s : State) (a v : Word) : (s.storeWord a v).mem = s.mem.setWord a v := rfl
@[simp] theorem State.memValid_storeWord (s : State) (a v : Word) : (s.storeWord a v).memValid = s.memValid := rfl

/-! ### writeReg -/

@[simp] theorem State.pc_writeReg (s : State) (i : RegIdx) (v : Word) : (s.writeReg i v).pc = s.pc := rfl
@[simp] theorem State.runState_writeReg (s : State) (i : RegIdx) (v : Word) : (s.writeReg i v).runState = s.runState := rfl
@[simp] theorem State.regs_writeReg (s : State) (i : RegIdx) (v : Word) : (s.writeReg i v).regs = if i = 0#5 then s.regs else s.regs.set i.toNat v := rfl
@[simp] theorem State.csrCycle_writeReg (s : State) (i : RegIdx) (v : Word) : (s.writeReg i v).csrCycle = s.csrCycle := rfl
@[simp] theorem State.csrInstret_writeReg (s : State) (i : RegIdx) (v : Word) : (s.writeReg i v).csrInstret = s.csrInstret := rfl
@[simp] theorem State.hostQueue_writeReg (s : State) (i : RegIdx) (v : Word) : (s.writeReg i v).hostQueue = s.hostQueue := rfl
@[simp] theorem State.mem_writeReg (s : State) (i : RegIdx) (v : Word) : (s.writeReg i v).mem = s.mem := rfl
@[simp] theorem State.memValid_writeReg (s : State) (i : RegIdx) (v : Word) : (s.writeReg i v).memValid = s.memValid := rfl

/-! ### pushHost -/

@[simp] theorem State.pc_pushHost (s : State) (v : Word) : (s.pushHost v).pc = s.pc := rfl
@[simp] theorem State.runState_pushHost (s : State) (v : Word) : (s.pushHost v).runState = s.runState := rfl
@[simp] theorem State.regs_pushHost (s : State) (v : Word) : (s.pushHost v).regs = s.regs := rfl
@[simp] theorem State.csrCycle_pushHost (s : State) (v : Word) : (s.pushHost v).csrCycle = s.csrCycle := rfl
@[simp] theorem State.csrInstret_pushHost (s : State) (v : Word) : (s.pushHost v).csrInstret = s.csrInstret := rfl
@[simp] theorem State.hostQueue_pushHost (s : State) (v : Word) : (s.pushHost v).hostQueue = s.hostQueue ++ [v] := rfl
@[simp] theorem State.mem_pushHost (s : State) (v : Word) : (s.pushHost v).mem = s.mem := rfl
@[simp] theorem State.memValid_pushHost (s : State) (v : Word) : (s.pushHost v).memValid = s.memValid := rfl

/-! ### retire -/

@[simp] theorem State.pc_retire (s : State) : (s.retire).pc = s.pc := rfl
@[simp] theorem State.runState_retire (s : State) : (s.retire).runState = s.runState := rfl
@[simp] theorem State.regs_retire (s : State) : (s.retire).regs = s.regs := rfl
@[simp] theorem State.csrCycle_retire (s : State) : (s.retire).csrCycle = s.csrCycle + 1#32 := rfl
@[simp] theorem State.csrInstret_retire (s : State) : (s.retire).csrInstret = s.csrInstret + 1#32 := rfl
@[simp] theorem State.hostQueue_retire (s : State) : (s.retire).hostQueue = s.hostQueue := rfl
@[simp] theorem State.mem_retire (s : State) : (s.retire).mem = s.mem := rfl
@[simp] theorem State.memValid_retire (s : State) : (s.retire).memValid = s.memValid := rfl

/-! ### setPc -/

@[simp] theorem State.pc_setPc (s : State) (v : Word) : (s.setPc v).pc = v := rfl
@[simp] theorem State.runState_setPc (s : State) (v : Word) : (s.setPc v).runState = s.runState := rfl
@[simp] theorem State.regs_setPc (s : State) (v : Word) : (s.setPc v).regs = s.regs := rfl
@[simp] theorem State.csrCycle_setPc (s : State) (v : Word) : (s.setPc v).csrCycle = s.csrCycle := rfl
@[simp] theorem State.csrInstret_setPc (s : State) (v : Word) : (s.setPc v).csrInstret = s.csrInstret := rfl
@[simp] theorem State.hostQueue_setPc (s : State) (v : Word) : (s.setPc v).hostQueue = s.hostQueue := rfl
@[simp] theorem State.mem_setPc (s : State) (v : Word) : (s.setPc v).mem = s.mem := rfl
@[simp] theorem State.memValid_setPc (s : State) (v : Word) : (s.setPc v).memValid = s.memValid := rfl

/-! ### complete -/

@[simp] theorem State.pc_complete (s : State) (next : Word) : (s.complete next).pc = next := rfl
@[simp] theorem State.runState_complete (s : State) (next : Word) : (s.complete next).runState = s.runState := rfl
@[simp] theorem State.regs_complete (s : State) (next : Word) : (s.complete next).regs = s.regs := rfl
@[simp] theorem State.csrCycle_complete (s : State) (next : Word) : (s.complete next).csrCycle = s.csrCycle + 1#32 := rfl
@[simp] theorem State.csrInstret_complete (s : State) (next : Word) : (s.complete next).csrInstret = s.csrInstret + 1#32 := rfl
@[simp] theorem State.hostQueue_complete (s : State) (next : Word) : (s.complete next).hostQueue = s.hostQueue := rfl
@[simp] theorem State.mem_complete (s : State) (next : Word) : (s.complete next).mem = s.mem := rfl
@[simp] theorem State.memValid_complete (s : State) (next : Word) : (s.complete next).memValid = s.memValid := rfl

/-! ### resetCsrs -/

@[simp] theorem State.pc_resetCsrs (s : State) : (s.resetCsrs).pc = s.pc := rfl
@[simp] theorem State.runState_resetCsrs (s : State) : (s.resetCsrs).runState = s.runState := rfl
@[simp] theorem State.regs_resetCsrs (s : State) : (s.resetCsrs).regs = s.regs := rfl
@[simp] theorem State.csrCycle_resetCsrs (s : State) : (s.resetCsrs).csrCycle = 0#32 := rfl
@[simp] theorem State.csrInstret_resetCsrs (s : State) : (s.resetCsrs).csrInstret = 0#32 := rfl
@[simp] theorem State.hostQueue_resetCsrs (s : State) : (s.resetCsrs).hostQueue = [] := rfl
@[simp] theorem State.mem_resetCsrs (s : State) : (s.resetCsrs).mem = s.mem := rfl
@[simp] theorem State.memValid_resetCsrs (s : State) : (s.resetCsrs).memValid = s.memValid := rfl

/-! ### start -/

@[simp] theorem State.pc_start (s : State) : (s.start).pc = s.pc := rfl
@[simp] theorem State.runState_start (s : State) : (s.start).runState = .running := rfl
@[simp] theorem State.regs_start (s : State) : (s.start).regs = s.regs := rfl
@[simp] theorem State.csrCycle_start (s : State) : (s.start).csrCycle = s.csrCycle := rfl
@[simp] theorem State.csrInstret_start (s : State) : (s.start).csrInstret = s.csrInstret := rfl
@[simp] theorem State.hostQueue_start (s : State) : (s.start).hostQueue = s.hostQueue := rfl
@[simp] theorem State.mem_start (s : State) : (s.start).mem = s.mem := rfl
@[simp] theorem State.memValid_start (s : State) : (s.start).memValid = s.memValid := rfl

end Sys2Proof.Machine
end

