-- ==== Sys2Proof/Laws/Memory.lean ====
section
/-! SUPPORT. The laws of memory: read after write, a write leaves every other byte alone, and every write keeps the
canonical form. -/

namespace Sys2Proof.Machine

theorem Memory.get_cons (c : Host.Cell) (m : Memory) (a : Nat) (h : ∀ d ∈ m, c.1 < d.1) :
    (Memory.cons c m).get a = if a = c.1 then c.2 else m.get a := by
  have hout : ∀ m : Memory, (∀ d ∈ m, c.1 < d.1) → m.get c.1 = Config.unlistedByte := by
    intro m
    induction m with
    | nil => intro _; rfl
    | cons d rest ih =>
      intro h
      have hd := h d (by simp)
      rw [Memory.get, if_neg (by omega)]
      exact ih fun e he => h e (by simp [he])
  by_cases hv : c.2 = Config.unlistedByte
  · by_cases ha : a = c.1
    · simp [Memory.cons, hv, ha, hout m h]
    · simp [Memory.cons, hv, ha]
  · simp [Memory.cons, hv, Memory.get]

/-- Reading after a write: the written byte at its address, every other byte as before. -/
theorem Memory.get_set (m : Memory) (a b : Nat) (v : Byte) (h : m.wf) :
    (m.set a v).get b = if b = a then v else m.get b := by
  induction m with
  | nil => simp [Memory.set, Memory.get_cons (a, v) [] b (by simp)]
  | cons d rest ih =>
    obtain ⟨hp, hn⟩ := h
    rw [List.pairwise_cons] at hp
    have hrest : Memory.wf rest := ⟨hp.2, fun c hc => hn c (by simp [hc])⟩
    unfold Memory.set
    split
    · rename_i hlt
      rw [Memory.get_cons]
      intro e he
      rcases List.mem_cons.1 he with rfl | he
      · exact hlt
      · exact Nat.lt_trans hlt (hp.1 e he)
    · split
      · rename_i _ heq
        subst heq
        rw [Memory.get_cons (d.1, v) rest b fun e he => hp.1 e he]
        by_cases hb : b = d.1 <;> simp [Memory.get, hb]
      · rename_i _ hne
        rw [Memory.get, ih hrest, Memory.get]
        by_cases hb : b = d.1
        · simp [hb, Ne.symm hne]
        · simp [hb]

theorem Memory.mem_cons {c d : Host.Cell} {m : Memory} (h : d ∈ Memory.cons c m) : d = c ∨ d ∈ m := by
  unfold Memory.cons at h
  split at h
  · exact .inr h
  · simpa using h

theorem Memory.mem_set {m : Memory} {a : Nat} {v : Byte} {d : Host.Cell} (h : d ∈ m.set a v) :
    d = (a, v) ∨ d ∈ m := by
  induction m with
  | nil => exact Memory.mem_cons h
  | cons e rest ih =>
    unfold Memory.set at h
    split at h
    · exact Memory.mem_cons h
    · split at h
      · exact (Memory.mem_cons h).imp_right (by simp +contextual)
      · rcases List.mem_cons.1 h with rfl | h
        · exact .inr (by simp)
        · exact (ih h).imp_right (by simp +contextual)

theorem Memory.cons_wf {c : Host.Cell} {m : Memory} (hm : m.wf) (ha : c.1 < 2 ^ 32) (h : ∀ d ∈ m, c.1 < d.1) :
    (Memory.cons c m).wf := by
  unfold Memory.cons
  split
  · exact hm
  · rename_i hv
    exact ⟨List.pairwise_cons.2 ⟨h, hm.1⟩, fun d hd => by
      rcases List.mem_cons.1 hd with rfl | hd
      · exact ⟨ha, hv⟩
      · exact hm.2 d hd⟩

/-- A write of one byte keeps the canonical form. -/
theorem Memory.set_wf {m : Memory} (a : Nat) (v : Byte) (hm : m.wf) (ha : a < 2 ^ 32) : (m.set a v).wf := by
  induction m with
  | nil => exact Memory.cons_wf hm ha (by simp)
  | cons e rest ih =>
    obtain ⟨hp, hn⟩ := hm
    rw [List.pairwise_cons] at hp
    have hrest : Memory.wf rest := ⟨hp.2, fun c hc => hn c (by simp [hc])⟩
    unfold Memory.set
    split
    · rename_i hlt
      refine Memory.cons_wf ⟨List.pairwise_cons.2 hp, hn⟩ ha fun d hd => ?_
      rcases List.mem_cons.1 hd with rfl | hd
      · exact hlt
      · exact Nat.lt_trans hlt (hp.1 d hd)
    · split
      · rename_i _ heq
        subst heq
        exact Memory.cons_wf hrest ha hp.1
      · rename_i hlt hne
        have ih := ih hrest
        refine ⟨List.pairwise_cons.2 ⟨fun d hd => ?_, ih.1⟩, fun c hc => ?_⟩
        · rcases Memory.mem_set hd with rfl | hd
          · simp only at hlt hne ⊢; omega
          · exact hp.1 d hd
        · rcases List.mem_cons.1 hc with rfl | hc
          · exact hn _ (by simp)
          · exact ih.2 c hc

/-- A write of one word keeps the canonical form. -/
theorem Memory.setWord_wf {m : Memory} (a v : Word) (hm : m.wf) : (m.setWord a v).wf :=
  Memory.set_wf _ _ (Memory.set_wf _ _ (Memory.set_wf _ _ (Memory.set_wf _ _ hm a.isLt) (a + 1#32).isLt) (a + 2#32).isLt)
    (a + 3#32).isLt

/-- The bytes of memory after a write of one word. -/
theorem Memory.get_setWord {m : Memory} (a v b : Word) (hm : m.wf) :
    (m.setWord a v).get b.toNat =
      if b = a + 3#32 then byteOfWord v 3 else if b = a + 2#32 then byteOfWord v 2
      else if b = a + 1#32 then byteOfWord v 1 else if b = a then byteOfWord v 0 else m.get b.toNat := by
  have h0 := Memory.set_wf a.toNat (byteOfWord v 0) hm a.isLt
  have h1 := Memory.set_wf (a + 1#32).toNat (byteOfWord v 1) h0 (a + 1#32).isLt
  have h2 := Memory.set_wf (a + 2#32).toNat (byteOfWord v 2) h1 (a + 2#32).isLt
  unfold Memory.setWord
  rw [Memory.get_set _ _ _ _ h2, Memory.get_set _ _ _ _ h1, Memory.get_set _ _ _ _ h0, Memory.get_set _ _ _ _ hm]
  simp only [BitVec.toNat_inj]

/-- A word's four bytes, put together, are the word (20_memory.md R42). -/
theorem wordOfBytes_byteOfWord (v : Word) :
    wordOfBytes (byteOfWord v 0) (byteOfWord v 1) (byteOfWord v 2) (byteOfWord v 3) = v := by
  unfold wordOfBytes byteOfWord
  ext i hi
  simp only [BitVec.getElem_append, BitVec.getElem_extractLsb']
  split
  · simp [BitVec.getLsbD_eq_getElem hi]
  · split
    · rw [show 8 * 1 + (i - 8) = i by omega, BitVec.getLsbD_eq_getElem hi]
    · split
      · rw [show 8 * 2 + (i - 8 - 8) = i by omega, BitVec.getLsbD_eq_getElem hi]
      · rw [show 8 * 3 + (i - 8 - 8 - 8) = i by omega, BitVec.getLsbD_eq_getElem hi]

/-- Reading a word back after writing it. -/
theorem Memory.getWord_setWord {m : Memory} (a v : Word) (hm : m.wf) : (m.setWord a v).getWord a = v := by
  have d1 : a + 1#32 ≠ a := by bv_omega
  have d2 : a + 2#32 ≠ a := by bv_omega
  have d3 : a + 3#32 ≠ a := by bv_omega
  have d21 : a + 2#32 ≠ a + 1#32 := by bv_omega
  have d31 : a + 3#32 ≠ a + 1#32 := by bv_omega
  have d32 : a + 3#32 ≠ a + 2#32 := by bv_omega
  unfold Memory.getWord
  simp only [Memory.get_setWord _ _ _ hm, d1, d2, d3, d21, d31, d32, d1.symm, d2.symm, d3.symm, d21.symm, d31.symm,
    d32.symm, if_true, if_false]
  exact wordOfBytes_byteOfWord v

/-- A byte outside the four written is as before. -/
theorem Memory.get_setWord_of_ne {m : Memory} {a v b : Word} (hm : m.wf) (h0 : b ≠ a) (h1 : b ≠ a + 1#32)
    (h2 : b ≠ a + 2#32) (h3 : b ≠ a + 3#32) : (m.setWord a v).get b.toNat = m.get b.toNat := by
  rw [Memory.get_setWord _ _ _ hm, if_neg h3, if_neg h2, if_neg h1, if_neg h0]

end Sys2Proof.Machine
end

