-- ==== Sys2Proof/Laws/Ops.lean ====
section
/-! SUPPORT. One lemma per shared operation that says everything it can do; the provers cite these instead of
unfolding the operation. -/

namespace Sys2Proof.Machine

/-! ### Registers -/

@[simp] theorem State.readReg_zero (s : State) : s.readReg 0#5 = 0#32 := rfl

/-- What a register reads after a register write: the write to x0 is discarded (10_state.md R12). -/
theorem State.readReg_writeReg (s : State) (i j : RegIdx) (v : Word) :
    (s.writeReg i v).readReg j = if j = i ∧ i ≠ 0#5 then v else s.readReg j := by
  unfold State.readReg State.writeReg
  by_cases hj : j = 0#5
  · subst hj
    simp
    grind
  · by_cases hi : i = 0#5
    · simp [hi]
    · by_cases hij : j = i
      · simp [hij, hi]
      · have : i.toNat ≠ j.toNat := fun h => hij (BitVec.eq_of_toNat_eq h.symm)
        simp [hi, hj, hij, Vector.getElem_set_ne _ _ this]

@[simp] theorem State.readReg_retire (s : State) (i : RegIdx) : s.retire.readReg i = s.readReg i := rfl
@[simp] theorem State.readReg_setPc (s : State) (v : Word) (i : RegIdx) : (s.setPc v).readReg i = s.readReg i := rfl
@[simp] theorem State.readReg_complete (s : State) (v : Word) (i : RegIdx) : (s.complete v).readReg i = s.readReg i := rfl
@[simp] theorem State.readReg_storeWord (s : State) (a v : Word) (i : RegIdx) :
    (s.storeWord a v).readReg i = s.readReg i := rfl
@[simp] theorem State.readReg_pushHost (s : State) (v : Word) (i : RegIdx) : (s.pushHost v).readReg i = s.readReg i := rfl

/-! ### Memory accesses -/

/-- `accessible` looks at MEM_VALID alone. -/
theorem State.accessible_congr {s t : State} (h : t.memValid = s.memValid) (a : Word) : t.accessible a = s.accessible a := by
  simp [State.accessible, h]

/-- Everything a fetch can do. -/
theorem State.fetch_ok {s : State} {w : Word} (h : s.fetch = .ok w) :
    s.accessible s.pc = true ∧ w = s.mem.getWord s.pc := by
  unfold State.fetch at h
  split at h
  · exact ⟨‹_›, by simpa using h.symm⟩
  · cases h

/-- Everything a load can do. -/
theorem State.memRead_ok {s : State} {a w : Word} (h : s.memRead a = .ok w) :
    s.accessible a = true ∧ w = s.mem.getWord a := by
  unfold State.memRead at h
  split at h
  · exact ⟨‹_›, by simpa using h.symm⟩
  · cases h

/-- Everything a store can do. -/
theorem State.memWrite_ok {s t : State} {a v : Word} (h : s.memWrite a v = .ok t) :
    s.accessible a = true ∧ t = s.storeWord a v := by
  unfold State.memWrite at h
  split at h
  · exact ⟨‹_›, by simpa using h.symm⟩
  · cases h

/-! ### CSRs -/

/-- Everything a CSR read can do (10_state.md R21 to R24). -/
theorem State.readCsr_ok {s : State} {c : CsrIdx} {v : Word} (h : s.readCsr c = .ok v) :
    (c = Config.csrTohost ∧ v = Config.tohostReadValue) ∨ (c = Config.csrCycle ∧ v = s.csrCycle) ∨
      (c = Config.csrInstret ∧ v = s.csrInstret) := by
  unfold State.readCsr at h
  split at h
  · exact .inl ⟨‹_›, by simpa using h.symm⟩
  · split at h
    · exact .inr (.inl ⟨‹_›, by simpa using h.symm⟩)
    · split at h
      · exact .inr (.inr ⟨‹_›, by simpa using h.symm⟩)
      · cases h

/-- Everything a CSR write can do (10_state.md R21 to R24). -/
theorem State.writeCsr_ok {s t : State} {c : CsrIdx} {v : Word} (h : s.writeCsr c v = .ok t) :
    c = Config.csrTohost ∧ t = s.pushHost v := by
  unfold State.writeCsr at h
  split at h
  · exact ⟨‹_›, by simpa using h.symm⟩
  · cases h

/-! ### Ends of a step -/

@[simp] theorem orFault_ok (a : α) (k : α → Result) : orFault (.ok a) k = k a := rfl
@[simp] theorem orFault_error (f : Fault) (k : α → Result) : orFault (.error f) k = .fault f := rfl

/-- A step that goes on after a collaborator's answer got one. -/
theorem orFault_next {e : Except Fault α} {k : α → Result} {t : State} (h : orFault e k = .next t) :
    ∃ a, e = .ok a ∧ k a = .next t := by
  cases e with
  | ok a => exact ⟨a, rfl, h⟩
  | error f => cases h

/-! ### The decoder's callers -/

/-- Everything a completed step can be (40_step_and_decode.md R90): the word at the pc decoded to an instruction whose
own meaning completed. -/
theorem step_next {s t : State} (h : step s = .next t) :
    ∃ w i, s.runState = .running ∧ s.fetch = .ok w ∧ decode w = .ok i ∧ exec i s = .next t := by
  unfold step at h
  split at h
  · cases h
  · rename_i hr
    obtain ⟨w, hw, h⟩ := orFault_next h
    split at h
    · exact ⟨w, _, hr, hw, ‹_›, h⟩
    · cases h

/-- Everything a completed instruction can do, whichever it is: one of four shapes (10_state.md R13). -/
theorem exec_next {i : Instr} {s t : State} (h : exec i s = .next t) :
    (∃ rd v next, t = (s.writeReg rd v).complete next) ∨ (∃ next, t = s.complete next) ∨
      (∃ rs1 rs2 imm, i = .sw rs1 rs2 imm ∧ s.accessible (s.effectiveAddress rs1 imm) = true ∧
        t = (s.storeWord (s.effectiveAddress rs1 imm) (s.readReg rs2)).complete s.nextPc) ∨
      (∃ rs1, i = .csrw Config.csrTohost rs1 ∧ t = (s.pushHost (s.readReg rs1)).complete s.nextPc) := by
  have hw : ∀ {rd v next}, finishWrite s rd v next = .next t → ∃ rd v next, t = (s.writeReg rd v).complete next :=
    fun h => ⟨_, _, _, by simpa [finishWrite] using h.symm⟩
  have hb : ∀ {op rs1 rs2 offset}, branch op rs1 rs2 offset s = .next t → ∃ next, t = s.complete next :=
    fun h => ⟨_, by simpa [branch, finish] using h.symm⟩
  cases i with
  | add | sub | sll | slt | sltu | xor | srl | sra | or | and => exact .inl (hw h)
  | addi | slti | sltiu | xori | ori | andi | slli | srli | srai | lui | auipc | jal | jalr => exact .inl (hw h)
  | beq | bne | blt | bge | bltu | bgeu => exact .inr (.inl (hb h))
  | lw => obtain ⟨v, -, h⟩ := orFault_next h; exact .inl (hw h)
  | csrr => obtain ⟨v, -, h⟩ := orFault_next h; exact .inl (hw h)
  | sw rs1 rs2 imm =>
    obtain ⟨u, hu, h⟩ := orFault_next h
    obtain ⟨ha, rfl⟩ := State.memWrite_ok hu
    exact .inr (.inr (.inl ⟨_, _, _, rfl, ha, by simpa [finish] using h.symm⟩))
  | csrw csr rs1 =>
    obtain ⟨v, -, h⟩ := orFault_next h
    obtain ⟨u, hu, h⟩ := orFault_next h
    obtain ⟨rfl, rfl⟩ := State.writeCsr_ok hu
    exact .inr (.inr (.inr ⟨_, rfl, by simpa [finish] using h.symm⟩))

end Sys2Proof.Machine
end

