-- ==== Sys2Proof/Laws/Safety.lean ====
section
/-! SUPPORT. The terms of the statements (Safety.lean) and the operations of the machine: one lemma for each way across. -/

namespace Sys2Proof.Machine

/-- A word-aligned address, as the machine tests it and as a number. -/
theorem aligned_iff (a : Word) : aligned a = true ↔ a.toNat % 4 = 0 := by
  unfold aligned
  rw [beq_iff_eq, ← BitVec.toNat_inj]
  simp

/-- The memory accepts an access exactly where the statements say so. -/
theorem accessible_iff (s : State) (a : Word) : s.accessible a = true ↔ InMemory s a := by
  unfold State.accessible InMemory AddressRange.contains
  simp [aligned_iff, BitVec.ule, List.any_eq_true]

/-- A distance written as a sign-extended field (00_scope.md R8). -/
theorem displaced_signExtend {n : Nat} (base : Word) (d : BitVec n) :
    displaced base (d.signExtend 32).toInt = base + d.signExtend 32 := by
  unfold displaced
  apply BitVec.eq_of_toInt_eq
  simp only [BitVec.toInt_add, BitVec.toInt_ofInt, BitVec.toInt_eq_toNat_bmod base]
  simp [Int.add_bmod]

/-- The same where the field is no wider than a Word, its own value the distance. -/
theorem displaced_toInt {n : Nat} (hn : n ≤ 32) (base : Word) (d : BitVec n) :
    displaced base d.toInt = base + d.signExtend 32 := by
  rw [← displaced_signExtend, BitVec.toInt_signExtend_of_le hn]

/-- A small distance forwards. -/
theorem displaced_ofNat (base : Word) (k : Nat) : displaced base k = base + BitVec.ofNat 32 k := by
  apply BitVec.eq_of_toNat_eq
  simp only [displaced, BitVec.toNat_ofInt, BitVec.toNat_add, BitVec.toNat_ofNat]
  omega

/-- The fall-through address. -/
theorem displaced_four (base : Word) : displaced base 4 = base + 4#32 := displaced_ofNat base 4

/-! ### Runs -/

/-- A run of one step more, taken apart, for any machine. -/
theorem core_run_succ {M : Host.Core} {n : Nat} {s t : M.State} (h : M.run (n + 1) s = .next t) :
    ∃ u, M.step s = .next u ∧ M.run n u = .next t := by
  rw [Host.Core.run] at h
  split at h
  · exact ⟨_, ‹_›, h⟩
  · cases h
  · cases h

/-- A run of one step more, put together, for any machine. -/
theorem core_run_of_step {M : Host.Core} {s u : M.State} (n : Nat) (h : M.step s = .next u) :
    M.run (n + 1) s = M.run n u := by
  rw [Host.Core.run, h]

/-- A run of this machine of one step more, taken apart. -/
theorem run_succ {n : Nat} {s t : State} (h : core.run (n + 1) s = .next t) :
    ∃ u, step s = .next u ∧ core.run n u = .next t := core_run_succ h

/-- A run of this machine of one step more, put together. -/
theorem run_of_step {s u : State} (n : Nat) (h : step s = .next u) : core.run (n + 1) s = core.run n u :=
  core_run_of_step n h

/-! ### A step whose word is known -/

/-- In Running, with the fetched word known, a step is the decoder's answer (40_step_and_decode.md R90). -/
theorem step_of_fetch {s : State} {w : Word} (hr : s.runState = .running) (hf : s.fetch = .ok w) :
    step s = match decode w with
      | .ok i => exec i s
      | .error c => .refused (.illegalWord c w) := by
  simp only [step, hr, hf]
  rfl

end Sys2Proof.Machine
end

