-- ==== Sys2Proof/Laws/Cycle.lean ====
section
/-! SUPPORT. The clock cycle taken apart: what the core drives in each kind of cycle, the answers it gets in a cycle that
steps a decoded word, and the cycle that follows from both. The provers cite these instead of unfolding `cycle`. -/

namespace Sys2Proof.Machine

/-! ### The collaborators' failure signals -/

@[simp] theorem failed_ok (a : α) : failed (.ok a) = false := rfl
@[simp] theorem failed_error (f : Fault) : failed (.error f : Except Fault α) = true := rfl

theorem failed_fetch (s : State) : failed s.fetch = !s.accessible s.pc := by
  unfold State.fetch
  split <;> simp_all

theorem failed_memRead (s : State) (a : Word) : failed (s.memRead a) = !s.accessible a := by
  unfold State.memRead
  split <;> simp_all

theorem failed_memWrite (s : State) (a v : Word) : failed (s.memWrite a v) = !s.accessible a := by
  unfold State.memWrite
  split <;> simp_all

/-! ### Ports that an access and a write-back leave alone -/

@[simp] theorem Ports.imemAddr_withAccess (p : Ports) (r : InstructionRecord) : (p.withAccess r).imemAddr = p.imemAddr := by
  unfold Ports.withAccess
  split <;> rfl
@[simp] theorem Ports.rfRead1_withAccess (p : Ports) (r : InstructionRecord) : (p.withAccess r).rfRead1 = p.rfRead1 := by
  unfold Ports.withAccess
  split <;> rfl
@[simp] theorem Ports.rfRead2_withAccess (p : Ports) (r : InstructionRecord) : (p.withAccess r).rfRead2 = p.rfRead2 := by
  unfold Ports.withAccess
  split <;> rfl
@[simp] theorem Ports.csrRead_withAccess (p : Ports) (r : InstructionRecord) : (p.withAccess r).csrRead = p.csrRead := by
  unfold Ports.withAccess
  split <;> rfl
@[simp] theorem Ports.rfWrite_withAccess (p : Ports) (r : InstructionRecord) : (p.withAccess r).rfWrite = p.rfWrite := by
  unfold Ports.withAccess
  split <;> rfl
@[simp] theorem Ports.csrWrite_withAccess (p : Ports) (r : InstructionRecord) : (p.withAccess r).csrWrite = p.csrWrite := by
  unfold Ports.withAccess
  split <;> rfl
@[simp] theorem Ports.csrRetire_withAccess (p : Ports) (r : InstructionRecord) : (p.withAccess r).csrRetire = p.csrRetire := by
  unfold Ports.withAccess
  split <;> rfl
@[simp] theorem Ports.csrReset_withAccess (p : Ports) (r : InstructionRecord) : (p.withAccess r).csrReset = p.csrReset := by
  unfold Ports.withAccess
  split <;> rfl
@[simp] theorem Ports.hostMessage_withAccess (p : Ports) (r : InstructionRecord) : (p.withAccess r).hostMessage = p.hostMessage := by
  unfold Ports.withAccess
  split <;> rfl
@[simp] theorem Ports.illegal_withAccess (p : Ports) (r : InstructionRecord) : (p.withAccess r).illegal = p.illegal := by
  unfold Ports.withAccess
  split <;> rfl
@[simp] theorem Ports.fault_withAccess (p : Ports) (r : InstructionRecord) : (p.withAccess r).fault = p.fault := by
  unfold Ports.withAccess
  split <;> rfl

/-! ### What a record's cycle drives whatever the answers are -/

@[simp] theorem recordCycle_imemAddr (idle : Ports) (r : InstructionRecord) (pc : Word) (ans : Answers) :
    (recordCycle idle r pc ans).ports.imemAddr = idle.imemAddr := by
  unfold recordCycle
  split <;> simp [Ports.withWriteBack]
@[simp] theorem recordCycle_rfRead1 (idle : Ports) (r : InstructionRecord) (pc : Word) (ans : Answers) :
    (recordCycle idle r pc ans).ports.rfRead1 = r.src1Index := by
  unfold recordCycle
  split <;> simp [Ports.withWriteBack]
@[simp] theorem recordCycle_rfRead2 (idle : Ports) (r : InstructionRecord) (pc : Word) (ans : Answers) :
    (recordCycle idle r pc ans).ports.rfRead2 = r.src2Index := by
  unfold recordCycle
  split <;> simp [Ports.withWriteBack]
@[simp] theorem recordCycle_csrRead (idle : Ports) (r : InstructionRecord) (pc : Word) (ans : Answers) :
    (recordCycle idle r pc ans).ports.csrRead = r.csrIndex := by
  unfold recordCycle
  split <;> simp [Ports.withWriteBack]

/-- `fault`, `illegal` and `csr_retire` of a record's cycle. -/
theorem recordCycle_signals (idle : Ports) (r : InstructionRecord) (pc : Word) (ans : Answers) :
    (recordCycle idle r pc ans).ports.fault = (accessFails r ans || idle.fault) ∧
    (recordCycle idle r pc ans).ports.illegal = idle.illegal ∧
    (recordCycle idle r pc ans).ports.csrRetire = (!accessFails r ans || idle.csrRetire) := by
  unfold recordCycle
  split <;> simp_all [Ports.withWriteBack]

/-- The execute stage leaves a record's kind alone. -/
@[simp] theorem execute_kind (r : InstructionRecord) (pc : Word) : (execute r pc).kind = r.kind := by
  unfold execute controlFlowBlock specialDataBlock aluBlock
  repeat' split
  all_goals rfl

/-- Only a record of kind Load or Store asks for a data access (R93, `dmem_req`). -/
theorem recordCycle_dmemReq {r : InstructionRecord} (hl : r.kind ≠ .load) (hs : r.kind ≠ .store) (idle : Ports) (pc : Word)
    (ans : Answers) : (recordCycle idle r pc ans).ports.dmemReq = idle.dmemReq := by
  have hk : (execute (r.withReads ans) pc).kind = r.kind := execute_kind _ _
  unfold recordCycle
  split <;> simp only [Ports.withWriteBack, Ports.withAccess] <;> split <;> simp_all

/-! ### The core, by the kind of cycle -/

/-- The ports of a cycle in which the core makes no access but the fetch. -/
def idlePorts (pc : Word) (run : RunState) (inp : CycleInputs) (ans : Answers) : Ports :=
  { imemAddr := pc, csrReset := inp.resetReq, hostMessage := ans.hostMessage, illegal := illegalPort run ans }

/-- A reset cycle (70_reset_and_hazards.md R230). -/
theorem coreCycle_reset {inp : CycleInputs} (h : inp.resetReq = true) (pc : Word) (run : RunState) (ans : Answers) :
    coreCycle pc run inp ans =
      { ports := idlePorts pc run inp ans, nextPc := inp.startAddress, nextRunState := .running } := by
  simp [coreCycle, h, idlePorts]

/-- A cycle that neither steps nor resets. -/
theorem coreCycle_hold {inp : CycleInputs} {run : RunState} (h : inp.resetReq = false) (hs : inp.stepping run = false)
    (pc : Word) (ans : Answers) :
    coreCycle pc run inp ans = { ports := idlePorts pc run inp ans, nextPc := pc, nextRunState := run } := by
  simp [coreCycle, h, hs, idlePorts]

/-- What stepping means (R93, R106, R230). -/
theorem stepping_iff (inp : CycleInputs) (run : RunState) :
    inp.stepping run = true ↔ inp.stepEn = true ∧ run = .running ∧ inp.resetReq = false := by
  simp [CycleInputs.stepping, and_assoc]

/-- A stepping cycle whose fetched word decodes. -/
theorem coreCycle_record {inp : CycleInputs} {run : RunState} {ans : Answers} {r : InstructionRecord}
    (hs : inp.stepping run = true) (hd : ans.decoded = some (.ok r)) (pc : Word) :
    coreCycle pc run inp ans = recordCycle (idlePorts pc run inp ans) r pc ans := by
  have hr := ((stepping_iff _ _).1 hs).2.2
  simp [coreCycle, hr, hs, hd, idlePorts]

/-- A stepping cycle whose fetched word is illegal. -/
theorem coreCycle_illegal {inp : CycleInputs} {run : RunState} {ans : Answers} {c : IllegalClass}
    (hs : inp.stepping run = true) (hd : ans.decoded = some (.error c)) (pc : Word) :
    coreCycle pc run inp ans = { ports := idlePorts pc run inp ans, nextPc := pc, nextRunState := run } := by
  have hr := ((stepping_iff _ _).1 hs).2.2
  simp [coreCycle, hr, hs, hd, idlePorts]

/-- A stepping cycle whose fetch fails. -/
theorem coreCycle_fetchFails {inp : CycleInputs} {run : RunState} {ans : Answers}
    (hs : inp.stepping run = true) (hf : ans.imemFail = true) (pc : Word) :
    coreCycle pc run inp ans =
      { ports := { idlePorts pc run inp ans with fault := true }, nextPc := pc, nextRunState := run } := by
  have hr := ((stepping_iff _ _).1 hs).2.2
  simp [coreCycle, hr, hs, Answers.decoded, hf, idlePorts]

/-! ### The answers -/

/-- The answers to the reads of a record, as the state holds them. -/
def readAnswers (inp : CycleInputs) (s : State) (r : InstructionRecord) : Answers :=
  { answerFetch inp s with
    rfRdata1 := r.src1Index.map s.readReg
    rfRdata2 := r.src2Index.map s.readReg
    csrRdata := r.csrIndex.bind fun c => (s.readCsr c).toOption
    csrFail := r.csrIndex.any fun c => failed (s.readCsr c) }

/-- The fetch's answer, and its decoding, are settled first and stay. -/
theorem answers_imem (inp : CycleInputs) (s : State) :
    (answers inp s).imemRdata = s.fetch.toOption ∧ (answers inp s).imemFail = failed s.fetch ∧
      (answers inp s).hostMessage = if inp.hostPoll then (pollHostMessage s).1 else none := ⟨rfl, rfl, rfl⟩

theorem decoded_of_fetch {s : State} {w : Word} {ans : Answers} (hf : s.fetch = .ok w)
    (h1 : ans.imemRdata = s.fetch.toOption) (h2 : ans.imemFail = failed s.fetch) :
    ans.decoded = some (decodeRecord w) := by
  simp [Answers.decoded, h1, h2, hf, Except.toOption]

/-- Everything the collaborators answer in a cycle that steps a decoded word: the reads first, then the data access and
the CSR write that the core asks for on them. -/
theorem answers_step {inp : CycleInputs} {s : State} {w : Word} {r : InstructionRecord}
    (hs : inp.stepping s.runState = true) (hf : s.fetch = .ok w) (hd : decodeRecord w = .ok r) :
    answers inp s =
      answerAccess (recordCycle (idlePorts s.pc s.runState inp (readAnswers inp s r)) r s.pc (readAnswers inp s r)).ports s
        (readAnswers inp s r) := by
  have h0 : (answerFetch inp s).decoded = some (.ok r) := by rw [decoded_of_fetch hf rfl rfl, hd]
  have h1 : answerReads (coreCycle s.pc s.runState inp (answerFetch inp s)).ports s (answerFetch inp s) =
      readAnswers inp s r := by
    rw [coreCycle_record hs h0]
    simp [answerReads, readAnswers]
  have h2 : (readAnswers inp s r).decoded = some (.ok r) := by rw [decoded_of_fetch hf rfl rfl, hd]
  unfold answers
  simp only [h1, coreCycle_record hs h2]

/-! ### The cycle -/

/-- A cycle without a poll is the core's, on the settled answers, and the clock edge after it. -/
theorem cycle_of_noPoll {inp : CycleInputs} (h : inp.hostPoll = false) (s : State) :
    cycle inp s = .next (clockEdge (coreCycle s.pc s.runState inp (answers inp s)) inp s,
      (coreCycle s.pc s.runState inp (answers inp s)).ports) := by
  simp [cycle, h]

/-- The cycle that steps a decoded word: a record's cycle on the settled answers. -/
theorem cycle_step {inp : CycleInputs} {s : State} {w : Word} {r : InstructionRecord} (hp : inp.hostPoll = false)
    (hs : inp.stepping s.runState = true) (hf : s.fetch = .ok w) (hd : decodeRecord w = .ok r) :
    let c := recordCycle (idlePorts s.pc s.runState inp (answers inp s)) r s.pc (answers inp s)
    cycle inp s = .next (clockEdge c inp s, c.ports) := by
  have h : (answers inp s).decoded = some (.ok r) := by
    rw [decoded_of_fetch hf (answers_imem inp s).1 (answers_imem inp s).2.1, hd]
  rw [cycle_of_noPoll hp, coreCycle_record hs h]

/-- With nothing to write, the clock edge writes nothing but the core's two registers. -/
theorem clockEdge_quiet {c : CoreCycle} {inp : CycleInputs} (hp : inp.hostPoll = false) (h1 : c.ports.dmemWrite = none)
    (h2 : c.ports.rfWrite = none) (h3 : c.ports.csrWrite = none) (h4 : c.ports.csrRetire = false)
    (h5 : c.ports.csrReset = false) (s : State) :
    clockEdge c inp s = { s with pc := c.nextPc, runState := c.nextRunState } := by
  simp [clockEdge, hp, State.edgeMemory, State.edgeRegisters, State.edgeCsrs, State.edgeCsrWrite, h1, h2, h3, h4, h5]

/-- A poll changes the queue alone (R107). -/
theorem pollHostMessage_keeps (s : State) :
    (pollHostMessage s).2 = { s with hostQueue := s.hostQueue.tail } := by
  cases s with
  | mk pc runState regs csrCycle csrInstret hostQueue mem memValid => cases hostQueue <;> rfl

/-- The cycle of a poll between steps leaves the poll's own state. -/
theorem clockEdge_poll {inp : CycleInputs} {s : State} (hp : inp.hostPoll = true) (h : inp.resetReq = false)
    (hs : inp.stepping s.runState = false) (ans : Answers) :
    clockEdge (coreCycle s.pc s.runState inp ans) inp s = (pollHostMessage s).2 := by
  rw [coreCycle_hold h hs]
  simp [clockEdge, hp, h, State.edgeMemory, State.edgeRegisters, State.edgeCsrs, State.edgeCsrWrite, idlePorts,
    pollHostMessage_keeps]

end Sys2Proof.Machine
end

