-- ==== Sys2Proof/Laws/Encode.lean ====
section
/-! SUPPORT. What each field of the decoder reads from each format of the encoder (30_encoding.md R61, R62). -/

namespace Sys2Proof

/-- The length bits are the low two of the opcode (30_encoding.md R64). -/
theorem extractLsb'_two_eq_fieldOpcode (w : Word) : w.extractLsb' 0 2 = (fieldOpcode w).extractLsb' 0 2 := by
  unfold fieldOpcode
  grind

/-! ### Format R -/

@[simp] theorem fieldOpcode_encodeR (f7 : BitVec 7) (rs2 rs1 : RegIdx) (f3 : BitVec 3) (rd : RegIdx) (op : BitVec 7) :
    fieldOpcode (encodeR f7 rs2 rs1 f3 rd op) = op := by
  unfold fieldOpcode encodeR
  grind

@[simp] theorem fieldRd_encodeR (f7 : BitVec 7) (rs2 rs1 : RegIdx) (f3 : BitVec 3) (rd : RegIdx) (op : BitVec 7) :
    fieldRd (encodeR f7 rs2 rs1 f3 rd op) = rd := by
  unfold fieldRd encodeR
  grind

@[simp] theorem fieldFunct3_encodeR (f7 : BitVec 7) (rs2 rs1 : RegIdx) (f3 : BitVec 3) (rd : RegIdx) (op : BitVec 7) :
    fieldFunct3 (encodeR f7 rs2 rs1 f3 rd op) = f3 := by
  unfold fieldFunct3 encodeR
  grind

@[simp] theorem fieldRs1_encodeR (f7 : BitVec 7) (rs2 rs1 : RegIdx) (f3 : BitVec 3) (rd : RegIdx) (op : BitVec 7) :
    fieldRs1 (encodeR f7 rs2 rs1 f3 rd op) = rs1 := by
  unfold fieldRs1 encodeR
  grind

@[simp] theorem fieldRs2_encodeR (f7 : BitVec 7) (rs2 rs1 : RegIdx) (f3 : BitVec 3) (rd : RegIdx) (op : BitVec 7) :
    fieldRs2 (encodeR f7 rs2 rs1 f3 rd op) = rs2 := by
  unfold fieldRs2 encodeR
  grind

@[simp] theorem fieldShamt_encodeR (f7 : BitVec 7) (rs2 rs1 : RegIdx) (f3 : BitVec 3) (rd : RegIdx) (op : BitVec 7) :
    fieldShamt (encodeR f7 rs2 rs1 f3 rd op) = rs2 := by
  unfold fieldShamt encodeR
  grind

@[simp] theorem fieldFunct7_encodeR (f7 : BitVec 7) (rs2 rs1 : RegIdx) (f3 : BitVec 3) (rd : RegIdx) (op : BitVec 7) :
    fieldFunct7 (encodeR f7 rs2 rs1 f3 rd op) = f7 := by
  unfold fieldFunct7 encodeR
  grind

/-! ### Format I -/

@[simp] theorem fieldOpcode_encodeI (imm : BitVec 12) (rs1 : RegIdx) (f3 : BitVec 3) (rd : RegIdx) (op : BitVec 7) :
    fieldOpcode (encodeI imm rs1 f3 rd op) = op := by
  unfold fieldOpcode encodeI
  grind

@[simp] theorem fieldRd_encodeI (imm : BitVec 12) (rs1 : RegIdx) (f3 : BitVec 3) (rd : RegIdx) (op : BitVec 7) :
    fieldRd (encodeI imm rs1 f3 rd op) = rd := by
  unfold fieldRd encodeI
  grind

@[simp] theorem fieldFunct3_encodeI (imm : BitVec 12) (rs1 : RegIdx) (f3 : BitVec 3) (rd : RegIdx) (op : BitVec 7) :
    fieldFunct3 (encodeI imm rs1 f3 rd op) = f3 := by
  unfold fieldFunct3 encodeI
  grind

@[simp] theorem fieldRs1_encodeI (imm : BitVec 12) (rs1 : RegIdx) (f3 : BitVec 3) (rd : RegIdx) (op : BitVec 7) :
    fieldRs1 (encodeI imm rs1 f3 rd op) = rs1 := by
  unfold fieldRs1 encodeI
  grind

@[simp] theorem fieldImmI_encodeI (imm : BitVec 12) (rs1 : RegIdx) (f3 : BitVec 3) (rd : RegIdx) (op : BitVec 7) :
    fieldImmI (encodeI imm rs1 f3 rd op) = imm := by
  unfold fieldImmI encodeI
  grind

@[simp] theorem fieldCsr_encodeI (imm : BitVec 12) (rs1 : RegIdx) (f3 : BitVec 3) (rd : RegIdx) (op : BitVec 7) :
    fieldCsr (encodeI imm rs1 f3 rd op) = imm := by
  unfold fieldCsr encodeI
  grind

/-! ### Format S -/

@[simp] theorem fieldOpcode_encodeS (imm : BitVec 12) (rs2 rs1 : RegIdx) (f3 : BitVec 3) (op : BitVec 7) :
    fieldOpcode (encodeS imm rs2 rs1 f3 op) = op := by
  unfold fieldOpcode encodeS
  grind

@[simp] theorem fieldFunct3_encodeS (imm : BitVec 12) (rs2 rs1 : RegIdx) (f3 : BitVec 3) (op : BitVec 7) :
    fieldFunct3 (encodeS imm rs2 rs1 f3 op) = f3 := by
  unfold fieldFunct3 encodeS
  grind

@[simp] theorem fieldRs1_encodeS (imm : BitVec 12) (rs2 rs1 : RegIdx) (f3 : BitVec 3) (op : BitVec 7) :
    fieldRs1 (encodeS imm rs2 rs1 f3 op) = rs1 := by
  unfold fieldRs1 encodeS
  grind

@[simp] theorem fieldRs2_encodeS (imm : BitVec 12) (rs2 rs1 : RegIdx) (f3 : BitVec 3) (op : BitVec 7) :
    fieldRs2 (encodeS imm rs2 rs1 f3 op) = rs2 := by
  unfold fieldRs2 encodeS
  grind

@[simp] theorem fieldImmS_encodeS (imm : BitVec 12) (rs2 rs1 : RegIdx) (f3 : BitVec 3) (op : BitVec 7) :
    fieldImmS (encodeS imm rs2 rs1 f3 op) = imm := by
  unfold fieldImmS encodeS
  apply BitVec.eq_of_getLsbD_eq
  intro i hi
  simp only [BitVec.getLsbD_append, BitVec.getLsbD_extractLsb']
  interval_cases i <;> simp

/-! ### Format B -/

@[simp] theorem fieldOpcode_encodeB (offset : BitVec 13) (rs2 rs1 : RegIdx) (f3 : BitVec 3) (op : BitVec 7) :
    fieldOpcode (encodeB offset rs2 rs1 f3 op) = op := by
  unfold fieldOpcode encodeB
  grind

@[simp] theorem fieldFunct3_encodeB (offset : BitVec 13) (rs2 rs1 : RegIdx) (f3 : BitVec 3) (op : BitVec 7) :
    fieldFunct3 (encodeB offset rs2 rs1 f3 op) = f3 := by
  unfold fieldFunct3 encodeB
  grind

@[simp] theorem fieldRs1_encodeB (offset : BitVec 13) (rs2 rs1 : RegIdx) (f3 : BitVec 3) (op : BitVec 7) :
    fieldRs1 (encodeB offset rs2 rs1 f3 op) = rs1 := by
  unfold fieldRs1 encodeB
  grind

@[simp] theorem fieldRs2_encodeB (offset : BitVec 13) (rs2 rs1 : RegIdx) (f3 : BitVec 3) (op : BitVec 7) :
    fieldRs2 (encodeB offset rs2 rs1 f3 op) = rs2 := by
  unfold fieldRs2 encodeB
  grind

/-! ### Format U -/

@[simp] theorem fieldOpcode_encodeU (imm20 : BitVec 20) (rd : RegIdx) (op : BitVec 7) :
    fieldOpcode (encodeU imm20 rd op) = op := by
  unfold fieldOpcode encodeU
  grind

@[simp] theorem fieldRd_encodeU (imm20 : BitVec 20) (rd : RegIdx) (op : BitVec 7) :
    fieldRd (encodeU imm20 rd op) = rd := by
  unfold fieldRd encodeU
  grind

@[simp] theorem fieldImmU_encodeU (imm20 : BitVec 20) (rd : RegIdx) (op : BitVec 7) :
    fieldImmU (encodeU imm20 rd op) = imm20 := by
  unfold fieldImmU encodeU
  grind

/-! ### Format J -/

@[simp] theorem fieldOpcode_encodeJ (offset : BitVec 21) (rd : RegIdx) (op : BitVec 7) :
    fieldOpcode (encodeJ offset rd op) = op := by
  unfold fieldOpcode encodeJ
  grind

@[simp] theorem fieldRd_encodeJ (offset : BitVec 21) (rd : RegIdx) (op : BitVec 7) :
    fieldRd (encodeJ offset rd op) = rd := by
  unfold fieldRd encodeJ
  grind

/-- The scattered offset comes back, for an even offset. -/
theorem fieldImmB_encodeB (offset : BitVec 13) (rs2 rs1 : RegIdx) (f3 : BitVec 3) (op : BitVec 7) (h : evenOffset offset = true) :
    fieldImmB (encodeB offset rs2 rs1 f3 op) = offset := by
  unfold evenOffset at h
  unfold fieldImmB encodeB
  apply BitVec.eq_of_getLsbD_eq
  intro i hi
  simp only [BitVec.getLsbD_append, BitVec.getLsbD_extractLsb']
  interval_cases i <;> simp_all

/-- The scattered offset comes back, for an even offset. -/
theorem fieldImmJ_encodeJ (offset : BitVec 21) (rd : RegIdx) (op : BitVec 7) (h : evenOffset offset = true) :
    fieldImmJ (encodeJ offset rd op) = offset := by
  unfold evenOffset at h
  unfold fieldImmJ encodeJ
  apply BitVec.eq_of_getLsbD_eq
  intro i hi
  simp only [BitVec.getLsbD_append, BitVec.getLsbD_extractLsb']
  interval_cases i <;> simp_all

end Sys2Proof
end

