-- ==== Sys2Proof/Laws/Decode.lean ====
section
/-! SUPPORT. The decoder by major opcode: what each opcode's words decode by, and the ten ways a word can decode
(30_encoding.md R73). -/

namespace Sys2Proof

/-- A word with a major opcode of the map has length bits 11 (R64). -/
theorem extractLsb'_two_of_opcode {w : Word} {op : BitVec 7} (h : fieldOpcode w = op) (h2 : op.extractLsb' 0 2 = 0b11#2) :
    w.extractLsb' 0 2 = 0b11#2 := by
  rw [extractLsb'_two_eq_fieldOpcode, h, h2]

theorem decode_aluReg {w : Word} (h : fieldOpcode w = opAluReg) : decode w = decodeAluReg w := by
  rw [decode, if_neg (not_not.2 (extractLsb'_two_of_opcode h (by decide))), if_pos h]

theorem decode_aluImm {w : Word} (h : fieldOpcode w = opAluImm) : decode w = decodeAluImm w := by
  rw [decode, if_neg (not_not.2 (extractLsb'_two_of_opcode h (by decide))), h]
  rfl

theorem decode_lui {w : Word} (h : fieldOpcode w = opLui) : decode w = .ok (.lui (fieldRd w) (fieldImmU w)) := by
  rw [decode, if_neg (not_not.2 (extractLsb'_two_of_opcode h (by decide))), h]
  rfl

theorem decode_auipc {w : Word} (h : fieldOpcode w = opAuipc) : decode w = .ok (.auipc (fieldRd w) (fieldImmU w)) := by
  rw [decode, if_neg (not_not.2 (extractLsb'_two_of_opcode h (by decide))), h]
  rfl

theorem decode_load {w : Word} (h : fieldOpcode w = opLoad) : decode w = decodeLoad w := by
  rw [decode, if_neg (not_not.2 (extractLsb'_two_of_opcode h (by decide))), h]
  rfl

theorem decode_store {w : Word} (h : fieldOpcode w = opStore) : decode w = decodeStore w := by
  rw [decode, if_neg (not_not.2 (extractLsb'_two_of_opcode h (by decide))), h]
  rfl

theorem decode_branch {w : Word} (h : fieldOpcode w = opBranch) : decode w = decodeBranch w := by
  rw [decode, if_neg (not_not.2 (extractLsb'_two_of_opcode h (by decide))), h]
  rfl

theorem decode_jal {w : Word} (h : fieldOpcode w = opJal) : decode w = .ok (.jal (fieldRd w) (fieldImmJ w)) := by
  rw [decode, if_neg (not_not.2 (extractLsb'_two_of_opcode h (by decide))), h]
  rfl

theorem decode_jalr {w : Word} (h : fieldOpcode w = opJalr) : decode w = decodeJalr w := by
  rw [decode, if_neg (not_not.2 (extractLsb'_two_of_opcode h (by decide))), h]
  rfl

theorem decode_system {w : Word} (h : fieldOpcode w = opSystem) : decode w = decodeSystem w := by
  rw [decode, if_neg (not_not.2 (extractLsb'_two_of_opcode h (by decide))), h]
  rfl

/-- A word that decodes has one of the ten major opcodes (R64). -/
theorem fieldOpcode_of_decode {w : Word} {i : Instr} (h : decode w = .ok i) :
    fieldOpcode w = opAluReg ∨ fieldOpcode w = opAluImm ∨ fieldOpcode w = opLui ∨ fieldOpcode w = opAuipc ∨
      fieldOpcode w = opLoad ∨ fieldOpcode w = opStore ∨ fieldOpcode w = opBranch ∨ fieldOpcode w = opJal ∨
      fieldOpcode w = opJalr ∨ fieldOpcode w = opSystem := by
  by_contra hn
  simp only [not_or] at hn
  obtain ⟨h1, h2, h3, h4, h5, h6, h7, h8, h9, h10⟩ := hn
  rw [decode, if_neg h1, if_neg h2, if_neg h3, if_neg h4, if_neg h5, if_neg h6, if_neg h7, if_neg h8, if_neg h9,
    if_neg h10] at h
  split at h <;> cases h

end Sys2Proof
end

