-- ==== Sys2Proof/Laws/PerInstr.lean ====
section
/-! SUPPORT. The family FixedBits: an instruction's encoded word carries the fixed bits of its row (30_encoding.md R63),
one lemma per constructor. -/

namespace Sys2Proof.Laws

/-- The encoded word of an instruction matches its row of the opcode table. -/
def FixedBits.Statement (i : Instr) : Prop := i.row.holds (encode i) = true

theorem encodeR_and_mask (f7 : BitVec 7) (rs2 rs1 : RegIdx) (f3 : BitVec 3) (rd : RegIdx) (op : BitVec 7) :
    encodeR f7 rs2 rs1 f3 rd op &&& 0xFE00707F#32 = encodeR f7 0 0 f3 0 op := by
  unfold encodeR
  apply BitVec.eq_of_getLsbD_eq
  intro i hi
  simp only [BitVec.getLsbD_and, BitVec.getLsbD_append]
  interval_cases i <;> simp

theorem encodeI_and_mask (imm : BitVec 12) (rs1 : RegIdx) (f3 : BitVec 3) (rd : RegIdx) (op : BitVec 7) :
    encodeI imm rs1 f3 rd op &&& 0x0000707F#32 = encodeI 0 0 f3 0 op := by
  unfold encodeI
  apply BitVec.eq_of_getLsbD_eq
  intro i hi
  simp only [BitVec.getLsbD_and, BitVec.getLsbD_append]
  interval_cases i <;> simp

theorem encodeI_and_maskRead (imm : BitVec 12) (rs1 : RegIdx) (f3 : BitVec 3) (rd : RegIdx) (op : BitVec 7) :
    encodeI imm rs1 f3 rd op &&& 0x000FF07F#32 = encodeI 0 rs1 f3 0 op := by
  unfold encodeI
  apply BitVec.eq_of_getLsbD_eq
  intro i hi
  simp only [BitVec.getLsbD_and, BitVec.getLsbD_append]
  interval_cases i <;> simp

theorem encodeI_and_maskWrite (imm : BitVec 12) (rs1 : RegIdx) (f3 : BitVec 3) (rd : RegIdx) (op : BitVec 7) :
    encodeI imm rs1 f3 rd op &&& 0x00007FFF#32 = encodeI 0 0 f3 rd op := by
  unfold encodeI
  apply BitVec.eq_of_getLsbD_eq
  intro i hi
  simp only [BitVec.getLsbD_and, BitVec.getLsbD_append]
  interval_cases i <;> simp

theorem encodeS_and_mask (imm : BitVec 12) (rs2 rs1 : RegIdx) (f3 : BitVec 3) (op : BitVec 7) :
    encodeS imm rs2 rs1 f3 op &&& 0x0000707F#32 = encodeS 0 0 0 f3 op := by
  unfold encodeS
  apply BitVec.eq_of_getLsbD_eq
  intro i hi
  simp only [BitVec.getLsbD_and, BitVec.getLsbD_append]
  interval_cases i <;> simp

theorem encodeB_and_mask (offset : BitVec 13) (rs2 rs1 : RegIdx) (f3 : BitVec 3) (op : BitVec 7) :
    encodeB offset rs2 rs1 f3 op &&& 0x0000707F#32 = encodeB 0 0 0 f3 op := by
  unfold encodeB
  apply BitVec.eq_of_getLsbD_eq
  intro i hi
  simp only [BitVec.getLsbD_and, BitVec.getLsbD_append]
  interval_cases i <;> simp

theorem encodeU_and_mask (imm20 : BitVec 20) (rd : RegIdx) (op : BitVec 7) :
    encodeU imm20 rd op &&& 0x0000007F#32 = encodeU 0 0 op := by
  unfold encodeU
  apply BitVec.eq_of_getLsbD_eq
  intro i hi
  simp only [BitVec.getLsbD_and, BitVec.getLsbD_append]
  interval_cases i <;> simp

theorem encodeJ_and_mask (offset : BitVec 21) (rd : RegIdx) (op : BitVec 7) :
    encodeJ offset rd op &&& 0x0000007F#32 = encodeJ 0 0 op := by
  unfold encodeJ
  apply BitVec.eq_of_getLsbD_eq
  intro i hi
  simp only [BitVec.getLsbD_and, BitVec.getLsbD_append]
  interval_cases i <;> simp

theorem FixedBits.add (rd : RegIdx) (rs1 : RegIdx) (rs2 : RegIdx) : FixedBits.Statement (.add rd rs1 rs2) := by
  simp only [FixedBits.Statement, Instr.row, TableRow.holds, encode, encodeR_and_mask]
  rfl

theorem FixedBits.sub (rd : RegIdx) (rs1 : RegIdx) (rs2 : RegIdx) : FixedBits.Statement (.sub rd rs1 rs2) := by
  simp only [FixedBits.Statement, Instr.row, TableRow.holds, encode, encodeR_and_mask]
  rfl

theorem FixedBits.sll (rd : RegIdx) (rs1 : RegIdx) (rs2 : RegIdx) : FixedBits.Statement (.sll rd rs1 rs2) := by
  simp only [FixedBits.Statement, Instr.row, TableRow.holds, encode, encodeR_and_mask]
  rfl

theorem FixedBits.slt (rd : RegIdx) (rs1 : RegIdx) (rs2 : RegIdx) : FixedBits.Statement (.slt rd rs1 rs2) := by
  simp only [FixedBits.Statement, Instr.row, TableRow.holds, encode, encodeR_and_mask]
  rfl

theorem FixedBits.sltu (rd : RegIdx) (rs1 : RegIdx) (rs2 : RegIdx) : FixedBits.Statement (.sltu rd rs1 rs2) := by
  simp only [FixedBits.Statement, Instr.row, TableRow.holds, encode, encodeR_and_mask]
  rfl

theorem FixedBits.xor (rd : RegIdx) (rs1 : RegIdx) (rs2 : RegIdx) : FixedBits.Statement (.xor rd rs1 rs2) := by
  simp only [FixedBits.Statement, Instr.row, TableRow.holds, encode, encodeR_and_mask]
  rfl

theorem FixedBits.srl (rd : RegIdx) (rs1 : RegIdx) (rs2 : RegIdx) : FixedBits.Statement (.srl rd rs1 rs2) := by
  simp only [FixedBits.Statement, Instr.row, TableRow.holds, encode, encodeR_and_mask]
  rfl

theorem FixedBits.sra (rd : RegIdx) (rs1 : RegIdx) (rs2 : RegIdx) : FixedBits.Statement (.sra rd rs1 rs2) := by
  simp only [FixedBits.Statement, Instr.row, TableRow.holds, encode, encodeR_and_mask]
  rfl

theorem FixedBits.or (rd : RegIdx) (rs1 : RegIdx) (rs2 : RegIdx) : FixedBits.Statement (.or rd rs1 rs2) := by
  simp only [FixedBits.Statement, Instr.row, TableRow.holds, encode, encodeR_and_mask]
  rfl

theorem FixedBits.and (rd : RegIdx) (rs1 : RegIdx) (rs2 : RegIdx) : FixedBits.Statement (.and rd rs1 rs2) := by
  simp only [FixedBits.Statement, Instr.row, TableRow.holds, encode, encodeR_and_mask]
  rfl

theorem FixedBits.addi (rd : RegIdx) (rs1 : RegIdx) (imm : BitVec 12) : FixedBits.Statement (.addi rd rs1 imm) := by
  simp only [FixedBits.Statement, Instr.row, TableRow.holds, encode, encodeI_and_mask]
  rfl

theorem FixedBits.slti (rd : RegIdx) (rs1 : RegIdx) (imm : BitVec 12) : FixedBits.Statement (.slti rd rs1 imm) := by
  simp only [FixedBits.Statement, Instr.row, TableRow.holds, encode, encodeI_and_mask]
  rfl

theorem FixedBits.sltiu (rd : RegIdx) (rs1 : RegIdx) (imm : BitVec 12) : FixedBits.Statement (.sltiu rd rs1 imm) := by
  simp only [FixedBits.Statement, Instr.row, TableRow.holds, encode, encodeI_and_mask]
  rfl

theorem FixedBits.xori (rd : RegIdx) (rs1 : RegIdx) (imm : BitVec 12) : FixedBits.Statement (.xori rd rs1 imm) := by
  simp only [FixedBits.Statement, Instr.row, TableRow.holds, encode, encodeI_and_mask]
  rfl

theorem FixedBits.ori (rd : RegIdx) (rs1 : RegIdx) (imm : BitVec 12) : FixedBits.Statement (.ori rd rs1 imm) := by
  simp only [FixedBits.Statement, Instr.row, TableRow.holds, encode, encodeI_and_mask]
  rfl

theorem FixedBits.andi (rd : RegIdx) (rs1 : RegIdx) (imm : BitVec 12) : FixedBits.Statement (.andi rd rs1 imm) := by
  simp only [FixedBits.Statement, Instr.row, TableRow.holds, encode, encodeI_and_mask]
  rfl

theorem FixedBits.slli (rd : RegIdx) (rs1 : RegIdx) (shamt : BitVec 5) : FixedBits.Statement (.slli rd rs1 shamt) := by
  simp only [FixedBits.Statement, Instr.row, TableRow.holds, encode, encodeR_and_mask]
  rfl

theorem FixedBits.srli (rd : RegIdx) (rs1 : RegIdx) (shamt : BitVec 5) : FixedBits.Statement (.srli rd rs1 shamt) := by
  simp only [FixedBits.Statement, Instr.row, TableRow.holds, encode, encodeR_and_mask]
  rfl

theorem FixedBits.srai (rd : RegIdx) (rs1 : RegIdx) (shamt : BitVec 5) : FixedBits.Statement (.srai rd rs1 shamt) := by
  simp only [FixedBits.Statement, Instr.row, TableRow.holds, encode, encodeR_and_mask]
  rfl

theorem FixedBits.lui (rd : RegIdx) (imm20 : BitVec 20) : FixedBits.Statement (.lui rd imm20) := by
  simp only [FixedBits.Statement, Instr.row, TableRow.holds, encode, encodeU_and_mask]
  rfl

theorem FixedBits.auipc (rd : RegIdx) (imm20 : BitVec 20) : FixedBits.Statement (.auipc rd imm20) := by
  simp only [FixedBits.Statement, Instr.row, TableRow.holds, encode, encodeU_and_mask]
  rfl

theorem FixedBits.lw (rd : RegIdx) (rs1 : RegIdx) (imm : BitVec 12) : FixedBits.Statement (.lw rd rs1 imm) := by
  simp only [FixedBits.Statement, Instr.row, TableRow.holds, encode, encodeI_and_mask]
  rfl

theorem FixedBits.sw (rs1 : RegIdx) (rs2 : RegIdx) (imm : BitVec 12) : FixedBits.Statement (.sw rs1 rs2 imm) := by
  simp only [FixedBits.Statement, Instr.row, TableRow.holds, encode, encodeS_and_mask]
  rfl

theorem FixedBits.beq (rs1 : RegIdx) (rs2 : RegIdx) (offset : BitVec 13) : FixedBits.Statement (.beq rs1 rs2 offset) := by
  simp only [FixedBits.Statement, Instr.row, TableRow.holds, encode, encodeB_and_mask]
  rfl

theorem FixedBits.bne (rs1 : RegIdx) (rs2 : RegIdx) (offset : BitVec 13) : FixedBits.Statement (.bne rs1 rs2 offset) := by
  simp only [FixedBits.Statement, Instr.row, TableRow.holds, encode, encodeB_and_mask]
  rfl

theorem FixedBits.blt (rs1 : RegIdx) (rs2 : RegIdx) (offset : BitVec 13) : FixedBits.Statement (.blt rs1 rs2 offset) := by
  simp only [FixedBits.Statement, Instr.row, TableRow.holds, encode, encodeB_and_mask]
  rfl

theorem FixedBits.bge (rs1 : RegIdx) (rs2 : RegIdx) (offset : BitVec 13) : FixedBits.Statement (.bge rs1 rs2 offset) := by
  simp only [FixedBits.Statement, Instr.row, TableRow.holds, encode, encodeB_and_mask]
  rfl

theorem FixedBits.bltu (rs1 : RegIdx) (rs2 : RegIdx) (offset : BitVec 13) : FixedBits.Statement (.bltu rs1 rs2 offset) := by
  simp only [FixedBits.Statement, Instr.row, TableRow.holds, encode, encodeB_and_mask]
  rfl

theorem FixedBits.bgeu (rs1 : RegIdx) (rs2 : RegIdx) (offset : BitVec 13) : FixedBits.Statement (.bgeu rs1 rs2 offset) := by
  simp only [FixedBits.Statement, Instr.row, TableRow.holds, encode, encodeB_and_mask]
  rfl

theorem FixedBits.jal (rd : RegIdx) (offset : BitVec 21) : FixedBits.Statement (.jal rd offset) := by
  simp only [FixedBits.Statement, Instr.row, TableRow.holds, encode, encodeJ_and_mask]
  rfl

theorem FixedBits.jalr (rd : RegIdx) (rs1 : RegIdx) (imm : BitVec 12) : FixedBits.Statement (.jalr rd rs1 imm) := by
  simp only [FixedBits.Statement, Instr.row, TableRow.holds, encode, encodeI_and_mask]
  rfl

theorem FixedBits.csrr (rd : RegIdx) (csr : CsrIdx) : FixedBits.Statement (.csrr rd csr) := by
  simp only [FixedBits.Statement, Instr.row, TableRow.holds, encode, encodeI_and_maskRead]
  rfl

theorem FixedBits.csrw (csr : CsrIdx) (rs1 : RegIdx) : FixedBits.Statement (.csrw csr rs1) := by
  simp only [FixedBits.Statement, Instr.row, TableRow.holds, encode, encodeI_and_maskWrite]
  rfl

end Sys2Proof.Laws
end

