-- ==== Sys2Proof/Tests/Slice0.lean ====
section
/-! SUPPORT. The model's own tests. Every expected value is from 95_test_vectors.md (V<n>), from a rule's own example, or,
where a comment says so, worked out by hand from a rule. The last part shows, for each statement of Obligations.lean with
hypotheses, a concrete state and operands that meet them. -/

namespace Sys2Proof.Tests

open Sys2Proof Sys2Proof.Machine

/-! ## WellFormed: every check refuses its ill-formed term (R67, R69) -/

theorem test_wellFormed_refuses_odd_beq : (Instr.beq 1 2 13#13).wellFormed = false := by decide
theorem test_wellFormed_refuses_odd_bne : (Instr.bne 1 2 1#13).wellFormed = false := by decide
theorem test_wellFormed_refuses_odd_blt : (Instr.blt 1 2 0x1FFF#13).wellFormed = false := by decide
theorem test_wellFormed_refuses_odd_bge : (Instr.bge 1 2 0x0FFF#13).wellFormed = false := by decide
theorem test_wellFormed_refuses_odd_bltu : (Instr.bltu 1 2 0x1001#13).wellFormed = false := by decide
theorem test_wellFormed_refuses_odd_bgeu : (Instr.bgeu 1 2 3#13).wellFormed = false := by decide
theorem test_wellFormed_refuses_odd_jal : (Instr.jal 1 0x0FFFFF#21).wellFormed = false := by decide

/-! ## Decode: a word of every instruction, from its rule's example or Parts 4 and 5 of the vectors -/

theorem test_decode_register_alu :
    decode 0x002081B3#32 = .ok (.add 3 1 2) ∧ decode 0x41DF0FB3#32 = .ok (.sub 31 30 29) ∧
    decode 0x002091B3#32 = .ok (.sll 3 1 2) ∧ decode 0x0020A1B3#32 = .ok (.slt 3 1 2) ∧
    decode 0x0020B1B3#32 = .ok (.sltu 3 1 2) ∧ decode 0x0020C1B3#32 = .ok (.xor 3 1 2) ∧
    decode 0x0020D1B3#32 = .ok (.srl 3 1 2) ∧ decode 0x4020D1B3#32 = .ok (.sra 3 1 2) ∧
    decode 0x0020E1B3#32 = .ok (.or 3 1 2) ∧ decode 0x0020F1B3#32 = .ok (.and 3 1 2) := by decide

theorem test_decode_immediate_alu :
    decode 0xFFF08193#32 = .ok (.addi 3 1 0xFFF#12) ∧ decode 0xFFF0A193#32 = .ok (.slti 3 1 0xFFF#12) ∧
    decode 0x0010B193#32 = .ok (.sltiu 3 1 1#12) ∧ decode 0xFFF0C193#32 = .ok (.xori 3 1 0xFFF#12) ∧
    decode 0x7000E193#32 = .ok (.ori 3 1 0x700#12) ∧ decode 0xFF00F193#32 = .ok (.andi 3 1 0xFF0#12) := by decide

theorem test_decode_shifts :
    decode 0x01F09193#32 = .ok (.slli 3 1 31) ∧ decode 0x0040D193#32 = .ok (.srli 3 1 4) ∧
    decode 0x41F0D193#32 = .ok (.srai 3 1 31) := by decide

theorem test_decode_upper :
    decode 0x123452B7#32 = .ok (.lui 5 0x12345#20) ∧ decode 0x80000297#32 = .ok (.auipc 5 0x80000#20) := by decide

/-- V313, V316 (the scattered immediate of S reaches both of its pieces). -/
theorem test_decode_memory :
    decode 0xFFC0A183#32 = .ok (.lw 3 1 0xFFC#12) ∧ decode 0x7E20AFA3#32 = .ok (.sw 1 2 0x7FF#12) ∧
    decode 0x8020A023#32 = .ok (.sw 1 2 0x800#12) := by decide

/-- R174 to R179, and V320 to V324 for the bits the format moves. -/
theorem test_decode_branches :
    decode 0x00208663#32 = .ok (.beq 1 2 12#13) ∧ decode 0xFE009EE3#32 = .ok (.bne 1 0 0x1FFC#13) ∧
    decode 0x0020C663#32 = .ok (.blt 1 2 12#13) ∧ decode 0xFE20DFE3#32 = .ok (.bge 1 2 0x1FFE#13) ∧
    decode 0x0020E663#32 = .ok (.bltu 1 2 12#13) ∧ decode 0x0020F663#32 = .ok (.bgeu 1 2 12#13) ∧
    decode 0x80000063#32 = .ok (.beq 0 0 0x1000#13) ∧ decode 0x7E000FE3#32 = .ok (.beq 0 0 0x0FFE#13) ∧
    decode 0x000000E3#32 = .ok (.beq 0 0 0x0800#13) := by decide

/-- V327 to V332. -/
theorem test_decode_jumps :
    decode 0x800000EF#32 = .ok (.jal 1 0x100000#21) ∧ decode 0x7FFFF0EF#32 = .ok (.jal 1 0x0FFFFE#21) ∧
    decode 0x001000EF#32 = .ok (.jal 1 0x000800#21) ∧ decode 0x000010EF#32 = .ok (.jal 1 0x001000#21) ∧
    decode 0xFFC280E7#32 = .ok (.jalr 1 5 0xFFC#12) := by decide

theorem test_decode_csr :
    decode 0xC02021F3#32 = .ok (.csrr 3 0xC02#12) ∧ decode 0x000F9073#32 = .ok (.csrw 0x000#12 31) := by decide

/-- The illegal words of V205 to V229, by class (R76). -/
theorem test_decode_illegal_lengths_and_opcodes :
    decode 0x00000000#32 = .error .shortOrCompressed ∧ decode 0x00000001#32 = .error .shortOrCompressed ∧
    decode 0xFFFFFFFF#32 = .error .unusedMajorOpcode ∧ decode 0x0000000F#32 = .error .unusedMajorOpcode ∧
    decode 0x0000100F#32 = .error .unusedMajorOpcode ∧ decode 0x0000202F#32 = .error .unusedMajorOpcode ∧
    decode 0x00002007#32 = .error .unusedMajorOpcode ∧ decode 0x0000001B#32 = .error .unusedMajorOpcode := by decide

theorem test_decode_illegal_functions :
    decode 0x022081B3#32 = .error .aluBadFunction ∧ decode 0x4020C1B3#32 = .error .aluBadFunction ∧
    decode 0x40009193#32 = .error .shiftBadFunction ∧ decode 0x2000D193#32 = .error .shiftBadFunction ∧
    decode 0x00008183#32 = .error .loadOtherWidth ∧ decode 0x0000C183#32 = .error .loadOtherWidth ∧
    decode 0x00208023#32 = .error .storeOtherWidth ∧ decode 0x0020A663#32 = .error .branchUnusedPredicate ∧
    decode 0x00009067#32 = .error .registerJumpBadFunction := by decide

theorem test_decode_illegal_system :
    decode 0x00000073#32 = .error .csrOtherForm ∧ decode 0x00100073#32 = .error .csrOtherForm ∧
    decode 0x30200073#32 = .error .csrOtherForm ∧ decode 0x10500073#32 = .error .csrOtherForm ∧
    decode 0xC000A1F3#32 = .error .csrOtherForm ∧ decode 0x780091F3#32 = .error .csrOtherForm ∧
    decode 0xC00031F3#32 = .error .csrOtherForm ∧ decode 0x7800D073#32 = .error .csrOtherForm := by decide

/-- Bytes: too few are refused, and the word of four is little-endian (R42; V311). -/
theorem test_decodeBytes :
    decodeBytes [0xB7#8, 0x52#8, 0x34#8] = .error .truncated ∧
    decodeBytes [0xB7#8, 0x52#8, 0x34#8, 0x12#8, 0xAA#8] = .ok (.lui 5 0x12345#20, [0xAA#8]) ∧
    encodeBytes (.lui 5 0x12345#20) = [0xB7#8, 0x52#8, 0x34#8, 0x12#8] := by decide

/-- The encoder's words of V301, V315, V324 and V328. -/
theorem test_encode :
    encode (.sub 31 30 29) = 0x41DF0FB3#32 ∧ encode (.sw 1 2 0xFFC#12) = 0xFE20AE23#32 ∧
    encode (.bge 1 2 0x1FFE#13) = 0xFE20DFE3#32 ∧ encode (.jal 1 0x0FFFFE#21) = 0x7FFFF0EF#32 := by decide

/-- "Rows are pairwise disjoint" (R73): every two rows differ in a bit both fix. -/
theorem test_rows_disjoint :
    opcodeTable.Pairwise (fun r q => r.fixed &&& (r.mask &&& q.mask) ≠ q.fixed &&& (r.mask &&& q.mask)) := by decide

theorem test_decodeTableWord :
    decodeTableWord 32 0x0020E663 = some (.bltu 1 2 12#13) ∧ decodeTableWord 32 0 = none := by decide

/-! ## The ALU and the predicates on corner values (Parts 2 and 3) -/

theorem test_alu_wraps :
    alu .add 0xFFFFFFFF#32 0xFFFFFFFF#32 = 0xFFFFFFFE#32 ∧ alu .sub 0x7FFFFFFF#32 0xFFFFFFFF#32 = 0x80000000#32 := by
  decide

theorem test_alu_shift_amount_is_modulo_32 :
    alu .shiftLeftLogical 1#32 0x100#32 = 1#32 ∧ alu .shiftLeftLogical 0xFFFFFFFF#32 0xFFFFFFFF#32 = 0x80000000#32 ∧
    alu .shiftRightLogical 0x80000000#32 0x3F#32 = 1#32 ∧ alu .shiftRightArithmetic 0x00008000#32 4#32 = 0x800#32 ∧
    alu .shiftRightArithmetic 0x80000000#32 0x20#32 = 0x80000000#32 := by decide

/-- V71 to V73: the values a 16-bit comparison gets wrong. -/
theorem test_alu_compares_32_bits :
    alu .setLessThanSigned 0x00008000#32 0#32 = 0#32 ∧ alu .setLessThanSigned 0x00010000#32 0x0000FFFF#32 = 0#32 ∧
    alu .setLessThanSigned 0xFFFF0000#32 0#32 = 1#32 := by decide

/-- V86 and V87. -/
theorem test_pred :
    pred .lessSigned 0x80000000#32 0x7FFFFFFF#32 = true ∧ pred .lessUnsigned 0x80000000#32 0x7FFFFFFF#32 = false ∧
    pred .lessSigned 0x00008000#32 0#32 = false ∧ pred .greaterOrEqualUnsigned 0x00008000#32 0#32 = true := by decide

/-! ## Single steps (Part 4) -/

/-- A state of Part 4: the word at the pc, `MEM_VALID` from 0 to 0x1FFC, both counters 41, the registers given. -/
def start (pc w : Word) (x : List (RegIdx × Word)) : State :=
  let s : State :=
    { pc := pc, runState := .running, regs := Vector.replicate 32 0#32, csrCycle := 41#32, csrInstret := 41#32,
      hostQueue := [], mem := Memory.setWord [] pc w, memValid := [⟨0#32, 0x1FFC#32⟩] }
  x.foldl (fun s p => s.writeReg p.1 p.2) s

/-- The pc and one register after one step, if it completes. -/
def after (s : State) (r : RegIdx) : Option (Word × Word) :=
  match step s with
  | .next t => some (t.pc, t.readReg r)
  | _ => none

/-- The word at an address after one step, if it completes. -/
def memAfter (s : State) (a : Word) : Option Word :=
  match step s with
  | .next t => some (t.mem.getWord a)
  | _ => none

/-- The fault a step ends in. -/
def faultOf (s : State) : Option Fault :=
  match step s with
  | .fault f => some f
  | _ => none

/-- The refusal a step ends in. -/
def refusalOf (s : State) : Option Refusal :=
  match step s with
  | .refused r => some r
  | _ => none

/-- V100. -/
theorem test_add_wraps :
    after (start 0x100#32 0x002081B3#32 [(1, 0x7FFFFFFF#32), (2, 1#32)]) 3 = some (0x104#32, 0x80000000#32) := by decide
/-- V110: both sources are the destination. -/
theorem test_add_to_itself :
    after (start 0x100#32 0x001080B3#32 [(1, 0xC0000001#32)]) 1 = some (0x104#32, 0x80000002#32) := by decide
/-- V101. -/
theorem test_sub_borrows :
    after (start 0x100#32 0x402081B3#32 [(1, 0#32), (2, 1#32)]) 3 = some (0x104#32, 0xFFFFFFFF#32) := by decide
/-- V102. -/
theorem test_sll_amount_33 :
    after (start 0x100#32 0x002091B3#32 [(1, 1#32), (2, 0x21#32)]) 3 = some (0x104#32, 2#32) := by decide
/-- V103 and V114. -/
theorem test_slt :
    after (start 0x100#32 0x0020A1B3#32 [(1, 0x80000000#32), (2, 0x7FFFFFFF#32)]) 3 = some (0x104#32, 1#32) := by decide
theorem test_slt_32_bits :
    after (start 0x100#32 0x0020A1B3#32 [(1, 0x8000#32), (2, 0#32), (3, 7#32)]) 3 = some (0x104#32, 0#32) := by decide
/-- V104. -/
theorem test_sltu :
    after (start 0x100#32 0x0020B1B3#32 [(1, 0x80000000#32), (2, 0x7FFFFFFF#32), (3, 7#32)]) 3 =
      some (0x104#32, 0#32) := by decide
/-- V105. -/
theorem test_xor :
    after (start 0x100#32 0x0020C1B3#32 [(1, 0x12345678#32), (2, 0x0FF00FF0#32)]) 3 =
      some (0x104#32, 0x1DC45988#32) := by decide
/-- V106. -/
theorem test_srl :
    after (start 0x100#32 0x0020D1B3#32 [(1, 0x80000000#32), (2, 4#32)]) 3 = some (0x104#32, 0x08000000#32) := by decide
/-- V107. -/
theorem test_sra :
    after (start 0x100#32 0x4020D1B3#32 [(1, 0x80000000#32), (2, 4#32)]) 3 = some (0x104#32, 0xF8000000#32) := by decide
/-- V108. -/
theorem test_or :
    after (start 0x100#32 0x0020E1B3#32 [(1, 0x12345678#32), (2, 0x0FF00FF0#32)]) 3 =
      some (0x104#32, 0x1FF45FF8#32) := by decide
/-- V109. -/
theorem test_and :
    after (start 0x100#32 0x0020F1B3#32 [(1, 0x12345678#32), (2, 0x0FF00FF0#32)]) 3 =
      some (0x104#32, 0x02300670#32) := by decide
/-- V116. -/
theorem test_addi_2047 :
    after (start 0x100#32 0x7FF08193#32 [(1, 0x7FFFFFFF#32)]) 3 = some (0x104#32, 0x800007FE#32) := by decide
/-- R77, the word worked out by hand (`addi x0, x0, -1`): a write to x0 is discarded. -/
theorem test_addi_x0 : after (start 0x100#32 0xFFF00013#32 []) 0 = some (0x104#32, 0#32) := by decide
/-- V120. -/
theorem test_slti :
    after (start 0x100#32 0xFFF0A193#32 [(1, 0xFFFFFFFE#32)]) 3 = some (0x104#32, 1#32) := by decide
/-- V122 and V123: sign-extended, then unsigned. -/
theorem test_sltiu_true :
    after (start 0x100#32 0xFFF0B193#32 [(1, 0x7FFFFFFF#32)]) 3 = some (0x104#32, 1#32) := by decide
theorem test_sltiu_false :
    after (start 0x100#32 0xFFF0B193#32 [(1, 0xFFFFFFFF#32), (3, 7#32)]) 3 = some (0x104#32, 0#32) := by decide
/-- R143's example. -/
theorem test_xori :
    after (start 0x100#32 0xFFF0C193#32 [(1, 0x12345678#32)]) 3 = some (0x104#32, 0xEDCBA987#32) := by decide
/-- R144's example. -/
theorem test_ori :
    after (start 0x100#32 0x7000E193#32 [(1, 0x12345678#32)]) 3 = some (0x104#32, 0x12345778#32) := by decide
/-- R145's example. -/
theorem test_andi :
    after (start 0x100#32 0xFF00F193#32 [(1, 0x12345678#32)]) 3 = some (0x104#32, 0x12345670#32) := by decide
/-- R146's example. -/
theorem test_slli : after (start 0x100#32 0x01F09193#32 [(1, 1#32)]) 3 = some (0x104#32, 0x80000000#32) := by decide
/-- R147's example. -/
theorem test_srli :
    after (start 0x100#32 0x0040D193#32 [(1, 0xF0000000#32)]) 3 = some (0x104#32, 0x0F000000#32) := by decide
/-- R148's example. -/
theorem test_srai :
    after (start 0x100#32 0x4040D193#32 [(1, 0xF0000000#32)]) 3 = some (0x104#32, 0xFF000000#32) := by decide
/-- V136. -/
theorem test_lui : after (start 0x100#32 0xFFFFF2B7#32 []) 5 = some (0x104#32, 0xFFFFF000#32) := by decide
/-- V191: the sum wraps. -/
theorem test_auipc : after (start 0x100#32 0xFFFFF297#32 []) 5 = some (0x104#32, 0xFFFFF100#32) := by decide
/-- V142, with the cell at 0x00000004: the address wraps. -/
theorem test_lw_wraps :
    after { start 0x100#32 0x0080A183#32 [(1, 0xFFFFFFFC#32)] with
      mem := (Memory.setWord [] 0x100#32 0x0080A183#32).setWord 4#32 0x11223344#32 } 3 =
      some (0x104#32, 0x11223344#32) := by decide
/-- V144 and V145: misaligned, outside `MEM_VALID`. -/
theorem test_lw_faults :
    faultOf (start 0x100#32 0x0020A183#32 [(1, 0x1000#32)]) = some .loadFailure ∧
    faultOf (start 0x100#32 0x0000A183#32 [(1, 0x2000#32)]) = some .loadFailure := by decide
/-- V146. -/
theorem test_sw :
    memAfter (start 0x100#32 0xFE20AE23#32 [(1, 0x1000#32), (2, 0xCAFEF00D#32)]) 0xFFC#32 =
      some 0xCAFEF00D#32 := by decide
/-- V150 and V151. -/
theorem test_sw_faults :
    faultOf (start 0x100#32 0x7E20AFA3#32 [(1, 0x1000#32), (2, 1#32)]) = some .storeFailure ∧
    faultOf (start 0x100#32 0x0020A023#32 [(1, 0x2000#32), (2, 1#32)]) = some .storeFailure := by decide
/-- V153, V154 (x1 is read back: no register is written). -/
theorem test_beq :
    after (start 0x100#32 0x00208663#32 [(1, 5#32), (2, 5#32)]) 1 = some (0x10C#32, 5#32) ∧
    after (start 0x100#32 0x00208663#32 [(1, 5#32), (2, 6#32)]) 1 = some (0x104#32, 5#32) := by decide
/-- V155, V156. -/
theorem test_bne :
    after (start 0x100#32 0x00209663#32 [(1, 5#32), (2, 6#32)]) 1 = some (0x10C#32, 5#32) ∧
    after (start 0x100#32 0x00209663#32 [(1, 5#32), (2, 5#32)]) 1 = some (0x104#32, 5#32) := by decide
/-- V157, V174. -/
theorem test_blt :
    after (start 0x100#32 0x0020C663#32 [(1, 0xFFFFFFFF#32), (2, 0#32)]) 2 = some (0x10C#32, 0#32) ∧
    after (start 0x100#32 0x0020C663#32 [(1, 0x8000#32), (2, 0#32)]) 2 = some (0x104#32, 0#32) := by decide
/-- V160, V161. -/
theorem test_bge :
    after (start 0x100#32 0x0020D663#32 [(1, 0x80000000#32), (2, 0#32)]) 2 = some (0x104#32, 0#32) ∧
    after (start 0x100#32 0x0020D663#32 [(1, 7#32), (2, 7#32)]) 2 = some (0x10C#32, 7#32) := by decide
/-- V2, V3: the source's own example. -/
theorem test_bltu :
    after (start 0#32 0x0020E663#32 [(1, 0#32), (2, 0#32)]) 2 = some (4#32, 0#32) ∧
    after (start 0#32 0x0020E663#32 [(1, 0#32), (2, 1#32)]) 2 = some (12#32, 1#32) := by decide
/-- V165, V166. -/
theorem test_bgeu :
    after (start 0x100#32 0x0020F663#32 [(1, 0xFFFFFFFF#32), (2, 0#32)]) 2 = some (0x10C#32, 0#32) ∧
    after (start 0x100#32 0x0020F663#32 [(1, 0#32), (2, 1#32)]) 2 = some (0x104#32, 1#32) := by decide
/-- V175, V180. -/
theorem test_jal :
    after (start 0x100#32 0x008000EF#32 []) 1 = some (0x108#32, 0x104#32) ∧
    after (start 0x100#32 0x800000EF#32 []) 1 = some (0xFFF00100#32, 0x104#32) := by decide
/-- V185: the old x1 is the target. -/
theorem test_jalr_to_its_own_link :
    after (start 0x100#32 0x000080E7#32 [(1, 0x200#32)]) 1 = some (0x200#32, 0x104#32) := by decide
/-- V187: bit 0 is kept. -/
theorem test_jalr_keeps_bit_0 :
    after (start 0x100#32 0x001280E7#32 [(5, 0x200#32)]) 1 = some (0x201#32, 0x104#32) := by decide
/-- V193, V194. -/
theorem test_csrr_counters :
    after (start 0x100#32 0xC02021F3#32 []) 3 = some (0x104#32, 41#32) ∧
    after (start 0x100#32 0xC00021F3#32 []) 3 = some (0x104#32, 41#32) := by decide
/-- V201. -/
theorem test_csrr_unimplemented : faultOf (start 0x100#32 0x300021F3#32 []) = some .csrFailure := by decide
/-- V197 and R33: the message, then absent. -/
theorem test_csrw_tohost :
    (match step (start 0x100#32 0x78009073#32 [(1, 0xDEADBEEF#32)]) with
      | .next t => (pollMany 2 t).1
      | _ => []) = [some 0xDEADBEEF#32, none] := by decide
/-- V199, V202. -/
theorem test_csrw_faults :
    faultOf (start 0x100#32 0xC0009073#32 [(1, 5#32)]) = some .csrFailure ∧
    faultOf (start 0x100#32 0x30009073#32 [(1, 5#32)]) = some .csrFailure := by decide

/-! ## The step's stops, the clock and the host -/

/-- V203, V204, V205 and R106. -/
theorem test_stops :
    faultOf (start 0x102#32 0x00000013#32 []) = some .fetchFailure ∧
    faultOf (start 0x2000#32 0x00000013#32 []) = some .fetchFailure ∧
    refusalOf (start 0x100#32 0#32 []) = some (.illegalWord .shortOrCompressed 0#32) ∧
    refusalOf { start 0x100#32 0x00000013#32 [] with runState := .inReset } = some .stepBeforeReset := by decide

/-- Log entry 5: with nothing placed, the first step from `State.reset` refuses the all-zero word. -/
theorem test_reset_runs_nothing :
    refusalOf State.reset = some (.illegalWord .shortOrCompressed 0#32) := by decide

/-- V193: both counters advance. -/
theorem test_counters_advance :
    (match step (start 0x100#32 0x00000013#32 []) with
      | .next t => some (t.csrCycle, t.csrInstret)
      | _ => none) = some (42#32, 42#32) := by decide

/-- The inputs of a cycle that steps, and of one that does not. -/
def stepCycle : CycleInputs := { resetReq := false, startAddress := 0#32, stepEn := true, hostPoll := false }
def holdCycle : CycleInputs := { stepCycle with stepEn := false }

/-- The out-ports of a cycle (R93). -/
def portsOf (inp : CycleInputs) (s : State) : Ports := (coreCycle s.pc s.runState inp (answers inp s)).ports

/-- The model accepts the cycle. -/
def cycleRuns (inp : CycleInputs) (s : State) : Bool :=
  match cycle inp s with
  | .next _ => true
  | _ => false

/-- V201: the cycle raises `fault` and changes nothing (R93, R203). -/
theorem test_cycle_fault :
    (match cycle stepCycle (start 0x100#32 0x300021F3#32 []) with
      | .next (t, p) => decide (t = start 0x100#32 0x300021F3#32 []) && p.fault && !p.csrRetire && !p.illegal
      | _ => false) = true := by decide

/-- V205: the cycle raises `illegal` and changes nothing (R93, R202). -/
theorem test_cycle_illegal :
    (match cycle stepCycle (start 0x100#32 0#32 []) with
      | .next (t, p) => decide (t = start 0x100#32 0#32 []) && p.illegal && !p.csrRetire && !p.fault
      | _ => false) = true := by decide

/-- R93, by hand: in Running the port says that the decoder refused the fetched word whether or not the core steps, and a
word that decodes raises nothing. -/
theorem test_cycle_illegal_without_step :
    (cycle holdCycle (start 0x100#32 0#32 []) =
      .next (start 0x100#32 0#32 [], { imemAddr := 0x100#32, illegal := true })) ∧
    (cycle holdCycle (start 0x100#32 0x13#32 []) = .next (start 0x100#32 0x13#32 [], { imemAddr := 0x100#32 })) :=
  ⟨rfl, rfl⟩

/-- R93, by hand: the in-ports of `add x3, x1, x2` and of `lw x3, 0(x1)` at the address of its own word. -/
theorem test_cycle_in_ports :
    answers stepCycle (start 0x100#32 0x002081B3#32 [(1, 5#32), (2, 7#32)]) =
      { imemRdata := some 0x002081B3#32, rfRdata1 := some 5#32, rfRdata2 := some 7#32 } ∧
    answers stepCycle (start 0x100#32 0x0000A183#32 [(1, 0x100#32)]) =
      { imemRdata := some 0x0000A183#32, rfRdata1 := some 0x100#32, dmemRdata := some 0x0000A183#32 } := by decide

/-- R33, R107, by hand: a poll between steps answers with the oldest message and leaves the rest in the queue. -/
theorem test_cycle_poll :
    cycle { holdCycle with hostPoll := true } { start 0x100#32 0x13#32 [] with hostQueue := [7#32, 8#32] } =
      .next ({ start 0x100#32 0x13#32 [] with hostQueue := [8#32] }, { imemAddr := 0x100#32, hostMessage := some 7#32 }) :=
  rfl

/-- R93, R77, by hand: `addi x0, x0, 5` raises `rf_wen` with address 0. -/
theorem test_cycle_write_to_x0 :
    (portsOf stepCycle (start 0x100#32 0x00500013#32 [])).rfWrite = some (0, 5#32) := by decide

/-- V100 on the ports (R93). -/
theorem test_cycle_add_ports :
    (match cycle stepCycle (start 0x100#32 0x002081B3#32 [(1, 0x7FFFFFFF#32), (2, 1#32)]) with
      | .next (_, p) => some (p.rfRead1, p.rfRead2, p.rfWrite, p.csrRetire)
      | _ => none) = some (some 1, some 2, some (3, 0x80000000#32), true) := by decide

/-- R230, R35: `reset` in Running. -/
theorem test_hostReset :
    (let t := hostReset 0x40#32 { start 0x100#32 0x00000013#32 [(1, 9#32)] with hostQueue := [1#32] }
     (t.pc, t.csrCycle, t.csrInstret, t.hostQueue, t.readReg 1)) = (0x40#32, 0#32, 0#32, [], 9#32) := by decide

/-- R233: a word loaded at power-on, then `reset`, is the first instruction to run (`addi x1, x0, -1`, V118). -/
theorem test_load_then_reset :
    (match hostLoad [(0x100#32, 0xFFF00093#32)] State.powerOn with
      | .next s => after (hostReset 0x100#32 s) 1
      | _ => none) = some (0x104#32, 0xFFFFFFFF#32) := by decide

/-- The placed word runs first from `State.reset` (`lui x5, 0x12345`, V135). -/
theorem test_withFetchWord : after (State.reset.withFetchWord 32 0x123452B7) 5 = some (4#32, 0x12345000#32) := by decide

/-- The record of V1, absent fields included. -/
theorem test_decodeRecord :
    decodeRecord 0x0020E663#32 =
      .ok { kind := .branch, branchOp := some .lessUnsigned, src1Index := some 1, src2Index := some 2,
            immediate := some 12#32 } := by decide

/-- V5: a Store record through execute. -/
theorem test_execute_store :
    (let r := execute { recordOf (.sw 1 2 0xFFC#12) with src1Value := some 0x1000#32, src2Value := some 0xCAFEF00D#32 } 0#32
     (r.address, r.data)) = (some 0xFFC#32, some 0xCAFEF00D#32) := by decide

/-- V5: a Load record through execute; `data` is not yet defined. -/
theorem test_execute_load :
    (let r := execute { recordOf (.lw 3 1 8#12) with src1Value := some 0x1000#32 } 0#32
     (r.address, r.data)) = (some 0x1008#32, none) := by decide

/-- Writing the value an unlisted byte reads as removes the entry (log entry 4). -/
theorem test_memory_canonical :
    (Memory.setWord [] 8#32 0x000000FF#32) = [(8, 0xFF#8)] ∧ (Memory.setWord [(8, 0xFF#8)] 8#32 0#32) = [] := by decide

/-! ## Witnesses: for each statement with hypotheses, a state and operands that meet them all -/

/-- The state a result goes on in. -/
def stateOf (r : Result) : State :=
  match r with
  | .next t => t
  | _ => State.powerOn

/-- `add x3, x1, x2` about to run. -/
def addState : State := start 0x100#32 0x002081B3#32 [(1, 5#32), (2, 7#32)]
/-- `sw x2, 0(x1)` about to run, at the base 0x1000. -/
def swState : State := start 0x100#32 0x0020A023#32 [(1, 0x1000#32), (2, 0x00000013#32)]
/-- `csrw tohost, x1` about to run. -/
def csrwState : State := start 0x100#32 0x78009073#32 [(1, 42#32)]

theorem witness_DecodeOfEncode :
    (Instr.jal 31 0x1FFFFE#21).wellFormed = true ∧ (Instr.beq 0 31 0x1000#13).wellFormed = true ∧
    (Instr.csrw 0xFFF#12 31).wellFormed = true := by decide

theorem witness_EncodeOfDecode : decode 0x41DF0FB3#32 = .ok (.sub 31 30 29) := by decide

theorem witness_IllegalIffNoRowMatches :
    (start 0x100#32 0#32 []).runState = .running ∧ (start 0x100#32 0#32 []).fetch = .ok 0#32 ∧
    ∀ row ∈ opcodeTable, 0#32 &&& row.mask ≠ row.fixed := by decide

/-- A word of each of the nine classes (the words of V205, V206, V213, V220, V221, V214, V216, V217, V218, V207). -/
theorem witness_IllegalWordClasses :
    (0#32).extractLsb 1 0 ≠ 0b11#2 ∧
    ((0xFFFFFFFF#32).extractLsb 1 0 = 0b11#2 ∧ (0xFFFFFFFF#32).extractLsb 6 2 ∉
      [0b00000#5, 0b00100#5, 0b00101#5, 0b01000#5, 0b01100#5, 0b01101#5, 0b11000#5, 0b11001#5, 0b11011#5, 0b11100#5]) ∧
    ((0x022081B3#32).extractLsb 6 0 = 0b0110011#7 ∧ (0x022081B3#32).extractLsb 31 25 ≠ 0b0000000#7 ∧
      (0x022081B3#32).extractLsb 31 25 ≠ 0b0100000#7) ∧
    ((0x40009193#32).extractLsb 6 0 = 0b0010011#7 ∧ (0x40009193#32).extractLsb 14 12 = 0b001#3 ∧
      (0x40009193#32).extractLsb 31 25 ≠ 0b0000000#7) ∧
    ((0x2000D193#32).extractLsb 6 0 = 0b0010011#7 ∧ (0x2000D193#32).extractLsb 14 12 = 0b101#3 ∧
      (0x2000D193#32).extractLsb 31 25 ≠ 0b0000000#7 ∧ (0x2000D193#32).extractLsb 31 25 ≠ 0b0100000#7) ∧
    ((0x00008183#32).extractLsb 6 0 = 0b0000011#7 ∧ (0x00008183#32).extractLsb 14 12 ≠ 0b010#3) ∧
    ((0x00208023#32).extractLsb 6 0 = 0b0100011#7 ∧ (0x00208023#32).extractLsb 14 12 ≠ 0b010#3) ∧
    ((0x0020A663#32).extractLsb 6 0 = 0b1100011#7 ∧ (0x0020A663#32).extractLsb 14 12 = 0b010#3) ∧
    ((0x00009067#32).extractLsb 6 0 = 0b1100111#7 ∧ (0x00009067#32).extractLsb 14 12 ≠ 0b000#3) ∧
    ((0x00000073#32).extractLsb 6 0 = 0b1110011#7 ∧
      ¬((0x00000073#32).extractLsb 14 12 = 0b010#3 ∧ (0x00000073#32).extractLsb 19 15 = 0#5) ∧
      ¬((0x00000073#32).extractLsb 14 12 = 0b001#3 ∧ (0x00000073#32).extractLsb 11 7 = 0#5)) := by decide

/-- A decoded word of every opcode, and of both kinds of the immediate ALU group. -/
theorem witness_records :
    ([0x002081B3#32, 0x7FF08193#32, 0x41F0D193#32, 0x123452B7#32, 0x80000297#32, 0xFFC0A183#32, 0xFE20AE23#32, 0x80000063#32,
        0x7FFFF0EF#32, 0xFFC280E7#32, 0xC02021F3#32, 0x78009073#32].map fun w => (w.extractLsb 6 0, w.extractLsb 14 12)) =
      [(0b0110011#7, 0b000#3), (0b0010011#7, 0b000#3), (0b0010011#7, 0b101#3), (0b0110111#7, 0b101#3),
        (0b0010111#7, 0b000#3), (0b0000011#7, 0b010#3), (0b0100011#7, 0b010#3), (0b1100011#7, 0b000#3),
        (0b1101111#7, 0b111#3), (0b1100111#7, 0b000#3), (0b1110011#7, 0b010#3), (0b1110011#7, 0b001#3)] := by decide

/-- Both sign and range ends of the immediates (V303, V304, V320, V321, V327, V328). -/
theorem witness_ImmediatesOfDecodedRecords :
    (decodeRecord 0x7FF08193#32).map (·.immediate) = .ok (some 0x7FF#32) ∧
    (decodeRecord 0x80008193#32).map (·.immediate) = .ok (some 0xFFFFF800#32) ∧
    (decodeRecord 0x8020A023#32).map (·.immediate) = .ok (some 0xFFFFF800#32) ∧
    (decodeRecord 0x80000063#32).map (·.immediate) = .ok (some 0xFFFFF000#32) ∧
    (decodeRecord 0x7E000FE3#32).map (·.immediate) = .ok (some 0xFFE#32) ∧
    (decodeRecord 0xFFFFF2B7#32).map (·.immediate) = .ok (some 0xFFFFF000#32) ∧
    (decodeRecord 0x800000EF#32).map (·.immediate) = .ok (some 0xFFF00000#32) ∧
    (decodeRecord 0x7FFFF0EF#32).map (·.immediate) = .ok (some 0xFFFFE#32) ∧
    (decodeRecord 0x41F0D193#32).map (·.immediate) = .ok (some 31#32) ∧
    (decodeRecord 0xC02021F3#32).map (·.csrIndex) = .ok (some 0xC02#12) ∧
    (decodeRecord 0x002081B3#32).map (·.immediate) = .ok none := by decide

theorem witness_DecodedRecordsFollowTheTable :
    decodeRecord 0xFE20AE23#32 = .ok (recordOf (.sw 1 2 0xFFC#12)) ∧
    decodeRecord 0x78009073#32 = .ok (recordOf (.csrw 0x780#12 1)) := by decide

/-- A register ALU record that has an immediate as well, and a Branch record with no predicate. -/
theorem witness_OnlyWellFormedRecordsRun :
    decodeRecord 0x002081B3#32 = .ok (recordOf (.add 3 1 2)) ∧
    { recordAluRegister .add 3 1 2 with immediate := some 0#32 }.wellFormed = false ∧
    { recordBranch .equal 1 2 4#13 with branchOp := none }.wellFormed = false := by decide

/-- Both ends of the bit range, and bits on both sides of the shift amount. -/
theorem witness_ShiftsBitByBit :
    (0 < 32 ∧ 31 < 32) ∧ (4#32).toNat % 32 ≤ 4 ∧ ¬(4#32).toNat % 32 ≤ 3 ∧ 27 + (4#32).toNat % 32 ≤ 31 ∧
    ¬28 + (4#32).toNat % 32 ≤ 31 := by decide

theorem witness_PredicateTable :
    (recordOf (.jal 1 8#21)).branchOp = some .alwaysTaken ∧
    (recordBranch .neverTaken 1 2 8#13).branchOp = some .neverTaken := by decide

/-- Each row's fixed bits are themselves a word of the row: the hypothesis of every `RowDecodes`. -/
theorem witness_RowDecodes : ∀ row ∈ opcodeTable, row.fixed &&& row.mask = row.fixed := by decide

/-- The first and the last word of `MEM_VALID` are in memory; the address after the last, and one that is 2 modulo 4, are
not. -/
theorem witness_LoadWordResult :
    InMemory (start 0x100#32 0#32 [(1, 0#32)]) ((start 0x100#32 0#32 [(1, 0#32)]).effectiveAddress 1 0#12) ∧
    InMemory (start 0x100#32 0#32 [(1, 0x2000#32)]) ((start 0x100#32 0#32 [(1, 0x2000#32)]).effectiveAddress 1 0xFFC#12) ∧
    ¬InMemory (start 0x100#32 0#32 [(1, 0x2000#32)]) ((start 0x100#32 0#32 [(1, 0x2000#32)]).effectiveAddress 1 0#12) ∧
    ¬InMemory (start 0x100#32 0#32 [(1, 0x1000#32)]) ((start 0x100#32 0#32 [(1, 0x1000#32)]).effectiveAddress 1 2#12) := by
  simp only [← accessible_iff]
  decide

theorem witness_StoreWordResult :
    swState.mem.wf ∧ InMemory swState (swState.effectiveAddress 1 0#12) ∧ ¬InMemory swState (swState.effectiveAddress 1 2#12) := by
  simp only [← accessible_iff]
  decide

theorem witness_LoadAfterStore :
    swState.mem.wf ∧ exec (.sw 1 2 0#12) swState = .next (stateOf (exec (.sw 1 2 0#12) swState)) ∧
    (3 : RegIdx) ≠ 0#5 ∧
    (stateOf (exec (.sw 1 2 0#12) swState)).effectiveAddress 1 0#12 = swState.effectiveAddress 1 0#12 ∧
    InMemory (stateOf (exec (.sw 1 2 0#12) swState)) ((stateOf (exec (.sw 1 2 0#12) swState)).effectiveAddress 1 4#12) ∧
    (stateOf (exec (.sw 1 2 0#12) swState)).effectiveAddress 1 4#12 ≠ swState.effectiveAddress 1 0#12 := by
  simp only [← accessible_iff]
  exact ⟨by decide, rfl, by decide, by decide, by decide, by decide⟩

/-- `sw x2, 0(x1)` with x1 one word past the pc, storing a no-operation: the very next step fetches it. -/
theorem witness_FetchSeesTheStore :
    let s := start 0x100#32 0x0020A023#32 [(1, 0x104#32), (2, 0x00000013#32)]
    let t := stateOf (exec (.sw 1 2 0#12) s)
    s.mem.wf ∧ exec (.sw 1 2 0#12) s = .next t ∧ t.runState = .running ∧ t.pc = s.effectiveAddress 1 0#12 ∧
    decode (s.readReg 2) = .ok (.addi 0 0 0#12) :=
  ⟨by decide, rfl, by decide, by decide, by decide⟩

/-- V152. -/
theorem witness_StoreToItsOwnAddress :
    let s := start 0x100#32 0x0020A023#32 [(1, 0x100#32), (2, 0x00000013#32)]
    s.mem.wf ∧ s.runState = .running ∧ s.fetch = .ok (encode (.sw 1 2 0#12)) ∧ s.effectiveAddress 1 0#12 = s.pc := by decide

theorem witness_CanonicalMemoryIsDetermined :
    Memory.wf [(8, 0xFF#8)] ∧ Memory.wf (Memory.set [(8, 1#8)] 8 0xFF#8) ∧
    ∀ a : Word, Memory.get [(8, 0xFF#8)] a.toNat = Memory.get (Memory.set [(8, 1#8)] 8 0xFF#8) a.toNat :=
  ⟨by decide, by decide, fun _ => rfl⟩

/-- V182 (`jal x0, 2`). -/
theorem witness_MisalignedTargetFaultsNextFetch :
    let s := start 0x100#32 0x0020006F#32 []
    let t := stateOf (step s)
    step s = .next t ∧ t.pc.toNat % 4 ≠ 0 ∧ (Instr.jal 0 2#21).wellFormed = true ∧ s.pc.toNat % 4 = 0 ∧
    exec (.jal 0 2#21) s = .next t ∧ (∀ rd rs1 imm, Instr.jal 0 2#21 ≠ .jalr rd rs1 imm) ∧ (1 : RegIdx) ≠ 0#5 :=
  ⟨rfl, by decide, by decide, by decide, rfl, by simp, by decide⟩

/-- The indices beside the three implemented ones, and both ends of the range, are unimplemented. -/
theorem witness_CsrReadResult :
    ∀ c ∈ [0x000#12, 0x77F#12, 0x781#12, 0xBFF#12, 0xC01#12, 0xC03#12, 0xFFF#12],
      c ≠ 0xC00#12 ∧ c ≠ 0xC02#12 ∧ c ≠ 0x780#12 := by decide

theorem witness_CsrWriteResult : (0x780#12 = 0x780#12) ∧ (0xC00#12 ≠ 0x780#12) ∧ (0x781#12 ≠ 0x780#12) := by decide

theorem witness_PayloadIsPolledExactlyOnce : csrwState.hostQueue = [] := by decide

/-- After reset, one no-operation and then `csrr x3, instret`: the second step reads 1. -/
def countState : State :=
  { start 0x100#32 0x00000013#32 [] with mem := (Memory.setWord [] 0x100#32 0x00000013#32).setWord 0x104#32 0xC02021F3#32 }

theorem witness_InstretOfTheNthStep :
    let t := stateOf (step (hostReset 0x100#32 countState))
    let u := stateOf (step t)
    core.run 1 (hostReset 0x100#32 countState) = .next t ∧ t.fetch = .ok 0xC02021F3#32 ∧
    decode 0xC02021F3#32 = .ok (.csrr 3 0xC02#12) ∧ step t = .next u ∧ u.readReg 3 = 1#32 :=
  ⟨rfl, by decide, by decide, rfl, by decide⟩

theorem witness_CountersCountCompletedSteps : core.run 1 addState = .next (stateOf (step addState)) := rfl

theorem witness_StepRunsTheDecodedInstruction :
    addState.runState = .running ∧ InMemory addState addState.pc ∧
    decodeBytes [addState.readByte addState.pc, addState.readByte (displaced addState.pc 1),
      addState.readByte (displaced addState.pc 2), addState.readByte (displaced addState.pc 3)] =
      .ok (.add 3 1 2, []) := by
  simp only [← accessible_iff]
  decide

theorem witness_StopsInStageOrder :
    State.powerOn.runState = .inReset ∧
    ((start 0x102#32 0#32 []).runState = .running ∧ ¬InMemory (start 0x102#32 0#32 []) (start 0x102#32 0#32 []).pc) ∧
    ((start 0x2000#32 0#32 []).runState = .running ∧ ¬InMemory (start 0x2000#32 0#32 []) (start 0x2000#32 0#32 []).pc) ∧
    ((start 0x1FFC#32 0#32 []).runState = .running ∧ InMemory (start 0x1FFC#32 0#32 []) (start 0x1FFC#32 0#32 []).pc ∧
      decode ((start 0x1FFC#32 0#32 []).mem.getWord (start 0x1FFC#32 0#32 []).pc) = .error .shortOrCompressed) := by
  simp only [← accessible_iff]
  decide

theorem witness_OnlyMemoryAndCsrCanFault :
    addState.runState = .running ∧ InMemory addState addState.pc ∧
    decode (addState.mem.getWord addState.pc) = .ok (.add 3 1 2) ∧
    (∀ rd rs1 imm, Instr.add 3 1 2 ≠ .lw rd rs1 imm) ∧ (∀ rs1 rs2 imm, Instr.add 3 1 2 ≠ .sw rs1 rs2 imm) ∧
    (∀ rd csr, Instr.add 3 1 2 ≠ .csrr rd csr) ∧ (∀ csr rs1, Instr.add 3 1 2 ≠ .csrw csr rs1) := by
  refine ⟨by decide, (accessible_iff _ _).1 (by decide), by decide, ?_, ?_, ?_, ?_⟩ <;> simp

theorem witness_EveryStepRetiresOne : step addState = .next (stateOf (step addState)) := rfl

/-- One completed instruction of each arm of the statement's match: a taken branch, JAL, JALR and another. -/
theorem witness_NextPcOfEveryInstruction :
    exec (.beq 0 0 8#13) addState = .next (stateOf (exec (.beq 0 0 8#13) addState)) ∧
    exec (.bne 0 0 8#13) addState = .next (stateOf (exec (.bne 0 0 8#13) addState)) ∧
    exec (.blt 1 2 8#13) addState = .next (stateOf (exec (.blt 1 2 8#13) addState)) ∧
    exec (.bge 1 2 8#13) addState = .next (stateOf (exec (.bge 1 2 8#13) addState)) ∧
    exec (.bltu 1 2 8#13) addState = .next (stateOf (exec (.bltu 1 2 8#13) addState)) ∧
    exec (.bgeu 1 2 8#13) addState = .next (stateOf (exec (.bgeu 1 2 8#13) addState)) ∧
    exec (.jal 1 8#21) addState = .next (stateOf (exec (.jal 1 8#21) addState)) ∧
    exec (.jalr 1 2 1#12) addState = .next (stateOf (exec (.jalr 1 2 1#12) addState)) ∧
    exec (.add 3 1 2) addState = .next (stateOf (exec (.add 3 1 2) addState)) :=
  ⟨rfl, rfl, rfl, rfl, rfl, rfl, rfl, rfl, rfl⟩

theorem witness_WritesOnlyTheDestination :
    exec (.add 3 1 2) addState = .next (stateOf (exec (.add 3 1 2) addState)) ∧
    destination (.add 3 1 2) ≠ some 4 ∧ destination (.sw 1 2 0#12) ≠ some 2 :=
  ⟨rfl, by decide, by decide⟩

/-- Two states that differ in x4 alone, an ADD that does not read it, and a CSRR that faults in both. -/
theorem witness_ReadsOnlyTheSources :
    SameButRegisters addState (addState.writeReg 4 9#32) ∧ (addState.writeReg 4 9#32).readReg 4 ≠ addState.readReg 4 ∧
    (∀ r ∈ sources (.add 3 1 2), (addState.writeReg 4 9#32).readReg r = addState.readReg r) ∧
    exec (.add 3 1 2) addState = .next (stateOf (exec (.add 3 1 2) addState)) ∧ destination (.add 3 1 2) = some 3 ∧
    (∀ r ∈ sources (.csrr 3 0x300#12), (addState.writeReg 4 9#32).readReg r = addState.readReg r) ∧
    exec (.csrr 3 0x300#12) addState = .fault .csrFailure :=
  ⟨⟨rfl, rfl, rfl, rfl, rfl, rfl, rfl⟩, by decide, by decide, rfl, by decide, by decide, rfl⟩

theorem witness_OnlyStoresChangeMemory :
    exec (.add 3 1 2) addState = .next (stateOf (exec (.add 3 1 2) addState)) ∧
    ∀ rs1 rs2 imm, Instr.add 3 1 2 ≠ .sw rs1 rs2 imm :=
  ⟨rfl, by simp⟩

theorem witness_OnlyCsrwSendsMessages :
    exec (.csrw 0x780#12 1) csrwState = .next (stateOf (exec (.csrw 0x780#12 1) csrwState)) ∧
    (stateOf (exec (.csrw 0x780#12 1) csrwState)).hostQueue = [42#32] :=
  ⟨rfl, by decide⟩

/-- A record of every kind reaches the execute stage. -/
theorem witness_ExecutedRecordFields :
    ([.add 3 1 2, .addi 3 1 1#12, .lw 3 1 0#12, .sw 1 2 0#12, .beq 1 2 8#13, .jal 1 8#21, .jalr 1 2 0#12, .auipc 3 1#20,
        .csrr 3 0xC00#12, .csrw 0x780#12 1].map fun i => (readCsrStage (readOperands (recordOf i) addState) addState).map (·.kind)) =
      [.ok .alu, .ok .alu, .ok .load, .ok .store, .ok .branch, .ok .jump, .ok .jumpRegister, .ok .addUpperImmToPC,
        .ok .csrRead, .ok .csrWrite] := by decide

theorem witness_EveryStepKeepsTheInvariant :
    swState.Inv ∧ step swState = .next (stateOf (step swState)) :=
  ⟨⟨by decide, by decide, by decide⟩, rfl⟩

theorem witness_ResetHasTheInvariant : swState.mem.wf ∧ swState.regs[0] = 0#32 := by decide

/-- Every move of the host completes somewhere. -/
theorem witness_HostMovesKeepTheInvariant :
    State.powerOn.Inv ∧ csrwState.Inv ∧
    hostMove (.load [(0x100#32, 0x13#32)]) State.powerOn =
      .next (stateOf (hostMove (.load [(0x100#32, 0x13#32)]) State.powerOn)) ∧
    hostMove (.reset 0x102#32) csrwState = .next (stateOf (hostMove (.reset 0x102#32) csrwState)) ∧
    hostMove .step csrwState = .next (stateOf (hostMove .step csrwState)) ∧
    hostMove .poll csrwState = .next (stateOf (hostMove .poll csrwState)) ∧
    hostMove .stop csrwState = .next csrwState :=
  ⟨⟨by decide, by decide, by decide⟩, ⟨by decide, by decide, by decide⟩, rfl, rfl, rfl, rfl, rfl⟩

theorem witness_FailedCycleChangesNothing :
    step (start 0x100#32 0x300021F3#32 []) = .fault .csrFailure ∧
    step (start 0x100#32 0#32 []) = .refused (.illegalWord .shortOrCompressed 0#32) ∧
    State.powerOn.runState = .inReset :=
  ⟨rfl, rfl, rfl⟩

/-- A step with each of the write ports, and without. -/
theorem witness_CompletedCyclePorts :
    step addState = .next (stateOf (step addState)) ∧ (portsOf stepCycle addState).rfWrite = some (3, 12#32) ∧
    (portsOf stepCycle addState).csrWrite = none ∧ (portsOf stepCycle addState).dmemWrite = none ∧
    step csrwState = .next (stateOf (step csrwState)) ∧
    (portsOf stepCycle csrwState).csrWrite = some (0x780#12, 42#32) ∧ (portsOf stepCycle csrwState).rfWrite = none ∧
    step swState = .next (stateOf (step swState)) ∧ (portsOf stepCycle swState).dmemWrite = some 0x13#32 ∧
    (portsOf stepCycle swState).rfWrite = none :=
  ⟨rfl, by decide, by decide, by decide, rfl, by decide, by decide, rfl, by decide, by decide⟩

/-- A cycle of each kind: a step, a poll between steps, a reset cycle with `step_en` up, a hold on an illegal word, a
fault of the fetch, of the CSR file's read and of its write, and of the data memory. -/
theorem witness_PortsOfEveryCycle :
    cycleRuns stepCycle addState ∧ decode 0x002081B3#32 = .ok (.add 3 1 2) ∧
    (portsOf stepCycle (start 0x100#32 0xC0009073#32 [])).fault = true ∧ cycleRuns { holdCycle with hostPoll := true } csrwState ∧
    cycleRuns { stepCycle with resetReq := true } addState ∧
    (cycleRuns holdCycle (start 0x100#32 0#32 []) ∧ (portsOf holdCycle (start 0x100#32 0#32 [])).illegal = true) ∧
    (portsOf stepCycle (start 0x2000#32 0x13#32 [])).fault = true ∧
    (portsOf stepCycle (start 0x100#32 0x300021F3#32 [])).fault = true ∧
    ((portsOf stepCycle (start 0x100#32 0x0000A183#32 [(1, 2#32)])).fault = true ∧
      (portsOf stepCycle (start 0x100#32 0x0000A183#32 [(1, 2#32)])).dmemReq = some 2#32) := by decide

/-- A run that ends at its first step's message. -/
theorem witness_RunEndsAtTheFirstMessage :
    csrwState.hostQueue = [] ∧
    runUntilMessage 1 csrwState = .message 42#32 1 { stateOf (step csrwState) with hostQueue := [] } := by decide

theorem witness_LoadedProgramIsFetched :
    State.powerOn.mem.wf ∧ State.powerOn.runState = .inReset ∧ InMemory State.powerOn 0x100#32 ∧
    InMemory State.powerOn 0xFFFFFFFC#32 ∧ decode 0x00000013#32 = .ok (.addi 0 0 0#12) := by
  simp only [← accessible_iff]
  decide

/-- A state at a misaligned pc outside `MEM_VALID` is one of the states the placed word is run from. -/
theorem witness_PlacedWordIsRun :
    (start 0x2002#32 0#32 []).mem.wf ∧ decodeTableWord 32 0x00000013 = some (.addi 0 0 0#12) := by decide

end Sys2Proof.Tests
end

section
/-! PROOFS. The family of 10_state.md: the invariant, the counters, the host channel, the next pc, and the registers
an instruction writes and reads. -/

namespace Sys2Proof.Machine

/-! ### The ends of an instruction -/

theorem finishWrite_next {s t : State} {rd : RegIdx} {v next : Word} (h : finishWrite s rd v next = .next t) :
    t = (s.writeReg rd v).complete next := by
  simpa [finishWrite] using h.symm

theorem finish_next {s t : State} {next : Word} (h : finish s next = .next t) : t = s.complete next := by
  simpa [finish] using h.symm

/-- Equal slots read alike. -/
theorem State.readReg_congr {s t : State} (h : t.regs = s.regs) (r : RegIdx) : t.readReg r = s.readReg r := by
  simp [State.readReg, h]

theorem State.readReg_writeReg_of_ne (s : State) {rd r : RegIdx} (v : Word) (h : r ≠ rd) :
    (s.writeReg rd v).readReg r = s.readReg r := by
  simp [State.readReg_writeReg, h]

theorem State.readReg_writeReg_self (s : State) (rd : RegIdx) (v : Word) :
    (s.writeReg rd v).readReg rd = if rd = 0#5 then 0#32 else v := by
  by_cases h : rd = 0#5
  · simp [h]
  · simp [State.readReg_writeReg, h]

/-- A register write ended at `next` is a `RegisterStep`. -/
theorem registerStep_complete (s : State) (rd : RegIdx) (v next : Word) :
    RegisterStep s ((s.writeReg rd v).complete next) rd v next :=
  ⟨⟨rfl, rfl, rfl, rfl, rfl⟩, ⟨s.readReg_writeReg_self rd v, fun _ hr => s.readReg_writeReg_of_ne v hr⟩, fun _ => rfl, rfl⟩

/-! ### Memory and CSR accesses as whole instructions -/

theorem State.readCsr_tohost (s : State) : s.readCsr Config.csrTohost = .ok Config.tohostReadValue := rfl

/-- The only way a CSR read fails (10_state.md R24). -/
theorem State.readCsr_error {s : State} {c : CsrIdx} {f : Fault} (h : s.readCsr c = .error f) : f = .csrFailure := by
  unfold State.readCsr at h
  split_ifs at h
  exact (Except.error.inj h).symm

theorem exec_csrr_tohost (rd : RegIdx) (s : State) :
    exec (.csrr rd Config.csrTohost) s = .next ((s.writeReg rd Config.tohostReadValue).complete s.nextPc) := rfl

theorem exec_csrr_instret (rd : RegIdx) (s : State) :
    exec (.csrr rd Config.csrInstret) s = .next ((s.writeReg rd s.csrInstret).complete s.nextPc) := rfl

theorem exec_csrw_instret (rs1 : RegIdx) (s : State) : exec (.csrw Config.csrInstret rs1) s = .fault .csrFailure := rfl

/-- SW in one line (42_load_store.md R162). -/
theorem execSw_eq (rs1 rs2 : RegIdx) (imm : BitVec 12) (s : State) :
    execSw rs1 rs2 imm s =
      if s.accessible (s.effectiveAddress rs1 imm) then
        finish (s.storeWord (s.effectiveAddress rs1 imm) (s.readReg rs2)) s.nextPc
      else .fault .storeFailure := by
  unfold execSw State.memWrite
  split <;> rfl

/-- CSRW in one line: `tohost` alone can be written, and it can be read as well (10_state.md R20 to R24). -/
theorem execCsrw_eq (csr : CsrIdx) (rs1 : RegIdx) (s : State) :
    execCsrw csr rs1 s =
      if csr = Config.csrTohost then finish (s.pushHost (s.readReg rs1)) s.nextPc else .fault .csrFailure := by
  unfold execCsrw State.writeCsr
  by_cases h : csr = Config.csrTohost
  · simp only [h, State.readCsr_tohost, orFault_ok, if_true]
  · simp only [h, if_false, orFault_error]
    cases hr : s.readCsr csr with
    | ok v => rfl
    | error f => rw [orFault_error, State.readCsr_error hr]

/-! ### The invariant -/

theorem Memory.nil_wf : Memory.wf [] := ⟨.nil, by simp⟩

/-- The slot of x0 is out of a register write's reach (10_state.md R12). -/
theorem State.regs_writeReg_zero (s : State) (rd : RegIdx) (v : Word) : (s.writeReg rd v).regs[0] = s.regs[0] := by
  rw [State.regs_writeReg]
  split
  · rfl
  · rename_i hrd
    have hne : rd.toNat ≠ 0 := fun h => hrd (BitVec.eq_of_toNat_eq h)
    exact Vector.getElem_set_ne _ _ hne

theorem State.Inv.writeReg {s : State} (h : s.Inv) (rd : RegIdx) (v : Word) : (s.writeReg rd v).Inv := by
  obtain ⟨hmem, hzero, hcount⟩ := h
  exact ⟨hmem, (s.regs_writeReg_zero rd v).trans hzero, hcount⟩

theorem State.Inv.storeWord {s : State} (h : s.Inv) (a v : Word) : (s.storeWord a v).Inv := by
  obtain ⟨hmem, hzero, hcount⟩ := h
  exact ⟨Memory.setWord_wf a v hmem, hzero, hcount⟩

theorem State.Inv.pushHost {s : State} (h : s.Inv) (v : Word) : (s.pushHost v).Inv := h

/-- Both counters advance together (10_state.md R22, R23). -/
theorem State.Inv.complete {s : State} (h : s.Inv) (next : Word) : (s.complete next).Inv := by
  obtain ⟨hmem, hzero, hcount⟩ := h
  exact ⟨hmem, hzero, congrArg (· + 1#32) hcount⟩

theorem exec_keeps_inv {i : Instr} {s t : State} (hs : s.Inv) (h : exec i s = .next t) : t.Inv := by
  obtain ⟨rd, v, next, rfl⟩ | ⟨next, rfl⟩ | ⟨rs1, rs2, imm, -, -, rfl⟩ | ⟨rs1, -, rfl⟩ := exec_next h
  · exact (hs.writeReg rd v).complete next
  · exact hs.complete next
  · exact (hs.storeWord _ _).complete _
  · exact (hs.pushHost _).complete _

/-- Settles O50: a completed step is a completed instruction, and each of the four things one can do keeps the
invariant. -/
theorem everyStepKeepsTheInvariant : Obligations.EveryStepKeepsTheInvariant := by
  intro s t hs h
  obtain ⟨_, _, _, _, _, hexec⟩ := step_next h
  exact exec_keeps_inv hs hexec

theorem hostReset_inv {s : State} (a : Word) (hmem : s.mem.wf) (hzero : s.regs[0] = 0#32) : (hostReset a s).Inv :=
  ⟨hmem, hzero, rfl⟩

/-- `State.reset` is a reset of the power-on state (10_state.md R35). -/
theorem reset_eq_hostReset_powerOn : State.reset = hostReset Config.startAddress State.powerOn := rfl

/-- Settles O51: a reset makes the counters equal, and `State.reset` is one. -/
theorem resetHasTheInvariant : Obligations.ResetHasTheInvariant :=
  ⟨reset_eq_hostReset_powerOn ▸ hostReset_inv _ Memory.nil_wf rfl, fun a _ hmem hzero => hostReset_inv a hmem hzero⟩

/-- Settles O54: the record after the reset of the power-on state is `State.reset`, whose memory lists nothing. -/
theorem resetStateIsTheFirstReset : Obligations.ResetStateIsTheFirstReset :=
  ⟨reset_eq_hostReset_powerOn, rfl, State.reset.readReg_zero, Memory.nil_wf⟩

/-! ### The counters -/

theorem exec_counts {i : Instr} {s t : State} (h : exec i s = .next t) :
    t.csrCycle = s.csrCycle + 1#32 ∧ t.csrInstret = s.csrInstret + 1#32 := by
  obtain ⟨_, _, _, rfl⟩ | ⟨_, rfl⟩ | ⟨_, _, _, -, -, rfl⟩ | ⟨_, -, rfl⟩ := exec_next h <;> exact ⟨rfl, rfl⟩

theorem step_counts {s t : State} (h : step s = .next t) :
    t.csrCycle = s.csrCycle + 1#32 ∧ t.csrInstret = s.csrInstret + 1#32 := by
  obtain ⟨_, _, _, _, _, hexec⟩ := step_next h
  exact exec_counts hexec

/-- A count of one and of `n` more, modulo 2^32. -/
theorem add_one_add_ofNat (c : Word) (n : Nat) : c + 1#32 + BitVec.ofNat 32 n = c + BitVec.ofNat 32 (n + 1) := by
  rw [BitVec.add_assoc, ← BitVec.ofNat_add, Nat.add_comm]

/-- Settles O38, by induction on the number of steps, from every state. -/
theorem countersCountCompletedSteps : Obligations.CountersCountCompletedSteps := by
  intro n
  induction n with
  | zero =>
    intro s t h
    cases h
    exact ⟨(BitVec.add_zero _).symm, (BitVec.add_zero _).symm⟩
  | succ n ih =>
    intro s t h
    obtain ⟨u, hstep, hrun⟩ := run_succ h
    obtain ⟨hcycle, hinstret⟩ := step_counts hstep
    obtain ⟨hcycle', hinstret'⟩ := ih u t hrun
    rw [hcycle, add_one_add_ofNat] at hcycle'
    rw [hinstret, add_one_add_ofNat] at hinstret'
    exact ⟨hcycle', hinstret'⟩

theorem hostReset_csrInstret (a : Word) (s : State) : (hostReset a s).csrInstret = 0#32 := rfl

/-- After `n` completed steps from a reset, `instret` is `n` modulo 2^32. -/
theorem csrInstret_of_run_hostReset {a : Word} {s t : State} {n : Nat} (h : core.run n (hostReset a s) = .next t) :
    t.csrInstret = BitVec.ofNat 32 n := by
  obtain ⟨-, hinstret⟩ := countersCountCompletedSteps n _ t h
  rw [hinstret, hostReset_csrInstret, BitVec.zero_add]

/-- A completed step whose word is known is the decoded instruction. -/
theorem exec_of_step {s t : State} {w : Word} {i : Instr} (hf : s.fetch = .ok w) (hd : decode w = .ok i)
    (h : step s = .next t) : exec i s = .next t := by
  obtain ⟨w', i', -, hf', hd', hexec⟩ := step_next h
  cases hf.symm.trans hf'
  cases hd.symm.trans hd'
  exact hexec

/-- Settles O37: the count of the steps before it is what the CSRR reads. -/
theorem instretOfTheNthStep : Obligations.InstretOfTheNthStep := by
  refine ⟨hostReset_csrInstret, fun s t h => ?_, fun a s t u n w rd hrun hf hd hstep => ?_, exec_csrw_instret⟩
  · obtain ⟨-, hinstret⟩ := step_counts h
    rw [hinstret, BitVec.toNat_add]
    rfl
  · have hexec : exec (.csrr rd Config.csrInstret) t = .next u := exec_of_step hf hd hstep
    rw [exec_csrr_instret] at hexec
    cases hexec
    rw [displaced_four, csrInstret_of_run_hostReset hrun]
    exact registerStep_complete t rd _ _

/-! ### The host channel -/

/-- Settles O33: the one value that a read of `tohost` has (log entry 8), written to `rd` alone. -/
theorem csrReadOfTohost : Obligations.CsrReadOfTohost := by
  intro rd s
  refine ⟨_, exec_csrr_tohost rd s, ?_⟩
  rw [displaced_four]
  exact registerStep_complete s rd _ _

theorem pollHostMessage_empty {s : State} (h : s.hostQueue = []) : pollHostMessage s = (none, s) := by
  simp [pollHostMessage, h]

theorem pollHostMessage_pending {s : State} {v : Word} {rest : List Word} (h : s.hostQueue = v :: rest) :
    pollHostMessage s = (some v, { s with hostQueue := rest }) := by
  simp [pollHostMessage, h]

/-- As many polls as pending messages return them all (10_state.md R33). -/
theorem pollMany_drains (q : List Word) (s : State) (h : s.hostQueue = q) :
    pollMany q.length s = (q.map some, { s with hostQueue := [] }) := by
  induction q generalizing s with
  | nil =>
    cases s
    cases h
    rfl
  | cons v rest ih =>
    simp only [List.length_cons, pollMany, pollHostMessage_pending h, ih { s with hostQueue := rest } rfl, List.map_cons]

/-- Polls of an empty queue are all absent and change nothing (40_step_and_decode.md R107). -/
theorem pollMany_empty (n : Nat) {s : State} (h : s.hostQueue = []) : pollMany n s = (List.replicate n none, s) := by
  induction n with
  | zero => rfl
  | succ n ih => simp only [pollMany, pollHostMessage_empty h, ih, List.replicate_succ]

/-- Settles O35, by induction on the queue. -/
theorem pollsDrainInOrder : Obligations.PollsDrainInOrder := by
  intro s
  rw [pollMany_drains s.hostQueue s rfl]
  exact ⟨rfl, rfl, pollHostMessage_empty rfl⟩

theorem exec_csrw_tohost (rs1 : RegIdx) (s : State) :
    exec (.csrw Config.csrTohost rs1) s = .next ((s.pushHost (s.readReg rs1)).complete s.nextPc) := rfl

/-- Settles O36: the queue holds the payload alone, then nothing. -/
theorem payloadIsPolledExactlyOnce : Obligations.PayloadIsPolledExactlyOnce := by
  intro rs1 s hempty
  refine ⟨_, exec_csrw_tohost rs1 s, ?_⟩
  have hpending : ((s.pushHost (s.readReg rs1)).complete s.nextPc).hostQueue = [s.readReg rs1] := by simp [hempty]
  rw [pollMany, pollHostMessage_pending hpending, pollMany_empty 2 rfl]
  rfl

/-! ### The next pc and the register written -/

/-- The pc that a branch leaves (43_control_transfer.md R182). -/
def branchTarget (op : BranchOp) (rs1 rs2 : RegIdx) (offset : BitVec 13) (s : State) : Word :=
  if pred op (s.readReg rs1) (s.readReg rs2) then s.relativeTarget (immB offset) else s.nextPc

/-- The pc that a completed instruction leaves (10_state.md R16, 43_control_transfer.md R170); `exec_next_pc` ties it to
the model. -/
def successor (s : State) : Instr → Word
  | .beq rs1 rs2 offset => branchTarget .equal rs1 rs2 offset s
  | .bne rs1 rs2 offset => branchTarget .notEqual rs1 rs2 offset s
  | .blt rs1 rs2 offset => branchTarget .lessSigned rs1 rs2 offset s
  | .bge rs1 rs2 offset => branchTarget .greaterOrEqualSigned rs1 rs2 offset s
  | .bltu rs1 rs2 offset => branchTarget .lessUnsigned rs1 rs2 offset s
  | .bgeu rs1 rs2 offset => branchTarget .greaterOrEqualUnsigned rs1 rs2 offset s
  | .jal _ offset => s.relativeTarget (immJ offset)
  | .jalr _ rs1 imm => s.registerTarget rs1 imm
  | _ => s.nextPc

/-- A completed instruction writes its destination, where it has one, leaves every other slot, and ends at its
successor: `exec_next` with the register and the pc named. -/
theorem exec_next_destination {i : Instr} {s t : State} (h : exec i s = .next t) :
    (∃ rd v, destination i = some rd ∧ t = (s.writeReg rd v).complete (successor s i)) ∨
      (destination i = none ∧ ∃ u : State, u.regs = s.regs ∧ t = u.complete (successor s i)) := by
  cases i with
  | add | sub | sll | slt | sltu | xor | srl | sra | or | and => exact .inl ⟨_, _, rfl, finishWrite_next h⟩
  | addi | slti | sltiu | xori | ori | andi | slli | srli | srai => exact .inl ⟨_, _, rfl, finishWrite_next h⟩
  | lui | auipc | jal | jalr => exact .inl ⟨_, _, rfl, finishWrite_next h⟩
  | beq | bne | blt | bge | bltu | bgeu => exact .inr ⟨rfl, s, rfl, finish_next h⟩
  | lw | csrr =>
    obtain ⟨v, -, h⟩ := orFault_next h
    exact .inl ⟨_, v, rfl, finishWrite_next h⟩
  | sw rs1 rs2 imm =>
    obtain ⟨u, hu, h⟩ := orFault_next h
    obtain ⟨-, rfl⟩ := State.memWrite_ok hu
    exact .inr ⟨rfl, _, State.regs_storeWord s _ _, finish_next h⟩
  | csrw csr rs1 =>
    obtain ⟨v, -, h⟩ := orFault_next h
    obtain ⟨u, hu, h⟩ := orFault_next h
    obtain ⟨-, rfl⟩ := State.writeCsr_ok hu
    exact .inr ⟨rfl, _, State.regs_pushHost s _, finish_next h⟩

theorem exec_next_pc {i : Instr} {s t : State} (h : exec i s = .next t) : t.pc = successor s i := by
  obtain ⟨_, _, -, rfl⟩ | ⟨-, _, -, rfl⟩ := exec_next_destination h <;> rfl

theorem State.nextPc_eq_displaced (s : State) : s.nextPc = displaced s.pc 4 := (displaced_four s.pc).symm

/-- A branch's successor, whatever condition its predicate stands for. -/
theorem branchTarget_of_iff {op : BranchOp} {rs1 rs2 : RegIdx} {offset : BitVec 13} {s : State} {P : Prop} [Decidable P]
    (h : pred op (s.readReg rs1) (s.readReg rs2) = true ↔ P) :
    branchTarget op rs1 rs2 offset s = if P then displaced s.pc offset.toInt else displaced s.pc 4 := by
  rw [displaced_toInt (by decide), displaced_four]
  exact if_congr h rfl rfl

theorem branchTarget_of_iff_not {op : BranchOp} {rs1 rs2 : RegIdx} {offset : BitVec 13} {s : State} {P : Prop}
    [Decidable P] (h : pred op (s.readReg rs1) (s.readReg rs2) = true ↔ ¬P) :
    branchTarget op rs1 rs2 offset s = if P then displaced s.pc 4 else displaced s.pc offset.toInt :=
  (branchTarget_of_iff h).trans (ite_not ..)

/-! The predicates on integers (43_control_transfer.md R173). -/

theorem pred_equal_iff (a b : Word) : pred .equal a b = true ↔ a = b := beq_iff_eq

theorem pred_notEqual_iff (a b : Word) : pred .notEqual a b = true ↔ ¬a = b := bne_iff_ne

theorem pred_lessSigned_iff (a b : Word) : pred .lessSigned a b = true ↔ a.toInt < b.toInt := BitVec.slt_iff_toInt_lt

theorem pred_lessUnsigned_iff (a b : Word) : pred .lessUnsigned a b = true ↔ a.toNat < b.toNat := BitVec.ult_iff_toNat_lt

theorem pred_greaterOrEqualSigned_iff (a b : Word) : pred .greaterOrEqualSigned a b = true ↔ ¬a.toInt < b.toInt := by
  rw [← pred_lessSigned_iff]
  simp [pred]

theorem pred_greaterOrEqualUnsigned_iff (a b : Word) :
    pred .greaterOrEqualUnsigned a b = true ↔ ¬a.toNat < b.toNat := by
  rw [← pred_lessUnsigned_iff]
  simp [pred]

/-- Settles O43: each instruction's successor, with its target and its comparison written on integers. -/
theorem nextPcOfEveryInstruction : Obligations.NextPcOfEveryInstruction := by
  intro i s t h
  have hpc := exec_next_pc h
  cases i with
  | beq => exact hpc.trans (branchTarget_of_iff (pred_equal_iff _ _))
  | bne => exact hpc.trans (branchTarget_of_iff_not (pred_notEqual_iff _ _))
  | blt => exact hpc.trans (branchTarget_of_iff (pred_lessSigned_iff _ _))
  | bge => exact hpc.trans (branchTarget_of_iff_not (pred_greaterOrEqualSigned_iff _ _))
  | bltu => exact hpc.trans (branchTarget_of_iff (pred_lessUnsigned_iff _ _))
  | bgeu => exact hpc.trans (branchTarget_of_iff_not (pred_greaterOrEqualUnsigned_iff _ _))
  | jal rd offset => exact hpc.trans (displaced_toInt (by decide) s.pc offset).symm
  | jalr rd rs1 imm => exact hpc.trans (displaced_toInt (by decide) (s.readReg rs1) imm).symm
  | _ => exact hpc.trans s.nextPc_eq_displaced

/-- Settles O44: the destination is the one slot that `exec_next_destination` lets change. -/
theorem writesOnlyTheDestination : Obligations.WritesOnlyTheDestination := by
  intro i s t h
  refine ⟨fun r hr => ?_, s.readReg_zero, t.readReg_zero⟩
  obtain ⟨rd, v, hrd, rfl⟩ | ⟨-, u, hu, rfl⟩ := exec_next_destination h
  · have hne : r ≠ rd := fun heq => hr (heq ▸ hrd)
    rw [State.readReg_complete, s.readReg_writeReg_of_ne v hne]
  · rw [State.readReg_complete, State.readReg_congr hu]

/-! ### The registers read -/

/-- The second outcome follows the first: it completes where the first does, in a state that differs in general
registers alone and agrees on `dest`, and it faults as the first does. -/
def Follows (dest : Option RegIdx) (x y : Result) : Prop :=
  (∀ t, x = .next t → ∃ t', y = .next t' ∧ SameButRegisters t t' ∧ ∀ r, dest = some r → t'.readReg r = t.readReg r) ∧
    ∀ f, x = .fault f → y = .fault f

theorem SameButRegisters.nextPc {s s' : State} (h : SameButRegisters s s') : s'.nextPc = s.nextPc := by
  obtain ⟨hpc, -⟩ := h
  rw [State.nextPc, hpc, State.nextPc]

theorem SameButRegisters.relativeTarget {s s' : State} (h : SameButRegisters s s') (imm : Word) :
    s'.relativeTarget imm = s.relativeTarget imm := by
  obtain ⟨hpc, -⟩ := h
  rw [State.relativeTarget, hpc, State.relativeTarget]

theorem SameButRegisters.accessible {s s' : State} (h : SameButRegisters s s') (a : Word) :
    s'.accessible a = s.accessible a := by
  obtain ⟨-, -, -, -, -, -, hvalid⟩ := h
  exact State.accessible_congr hvalid a

theorem SameButRegisters.memRead {s s' : State} (h : SameButRegisters s s') (a : Word) :
    s'.memRead a = s.memRead a := by
  have hacc := h.accessible a
  obtain ⟨-, -, -, -, -, hmem, -⟩ := h
  rw [State.memRead, hacc, hmem, State.memRead]

theorem SameButRegisters.readCsr {s s' : State} (h : SameButRegisters s s') (c : CsrIdx) :
    s'.readCsr c = s.readCsr c := by
  obtain ⟨-, -, hcycle, hinstret, -⟩ := h
  rw [State.readCsr, hcycle, hinstret, State.readCsr]

theorem SameButRegisters.writeReg {s s' : State} (h : SameButRegisters s s') (rd : RegIdx) (v : Word) :
    SameButRegisters (s.writeReg rd v) (s'.writeReg rd v) := h

theorem SameButRegisters.storeWord {s s' : State} (h : SameButRegisters s s') (a v : Word) :
    SameButRegisters (s.storeWord a v) (s'.storeWord a v) := by
  obtain ⟨hpc, hrun, hcycle, hinstret, hqueue, hmem, hvalid⟩ := h
  exact ⟨hpc, hrun, hcycle, hinstret, hqueue, congrArg (·.setWord a v) hmem, hvalid⟩

theorem SameButRegisters.pushHost {s s' : State} (h : SameButRegisters s s') (v : Word) :
    SameButRegisters (s.pushHost v) (s'.pushHost v) := by
  obtain ⟨hpc, hrun, hcycle, hinstret, hqueue, hmem, hvalid⟩ := h
  exact ⟨hpc, hrun, hcycle, hinstret, congrArg (· ++ [v]) hqueue, hmem, hvalid⟩

theorem SameButRegisters.complete {s s' : State} (h : SameButRegisters s s') (next : Word) :
    SameButRegisters (s.complete next) (s'.complete next) := by
  obtain ⟨-, hrun, hcycle, hinstret, hqueue, hmem, hvalid⟩ := h
  exact ⟨rfl, hrun, congrArg (· + 1#32) hcycle, congrArg (· + 1#32) hinstret, hqueue, hmem, hvalid⟩

theorem follows_fault (dest : Option RegIdx) (f : Fault) : Follows dest (.fault f) (.fault f) :=
  ⟨fun _ h => (nomatch h), fun _ h => h⟩

theorem follows_finish {s s' : State} {next next' : Word} (h : SameButRegisters s s') (hnext : next' = next) :
    Follows none (finish s next) (finish s' next') := by
  subst hnext
  refine ⟨fun t ht => ?_, fun _ hf => nomatch hf⟩
  cases finish_next ht
  exact ⟨_, rfl, h.complete next', fun _ hr => nomatch hr⟩

theorem follows_finishWrite {s s' : State} {rd : RegIdx} {v v' next next' : Word} (h : SameButRegisters s s')
    (hv : v' = v) (hnext : next' = next) : Follows (some rd) (finishWrite s rd v next) (finishWrite s' rd v' next') := by
  subst hv hnext
  refine ⟨fun t ht => ?_, fun _ hf => nomatch hf⟩
  cases finishWrite_next ht
  refine ⟨_, rfl, (h.writeReg rd v').complete next', fun r hr => ?_⟩
  cases hr
  simp only [State.readReg_complete, State.readReg_writeReg_self]

/-- After the same answer of a collaborator. -/
theorem follows_orFault {dest : Option RegIdx} {e e' : Except Fault α} {k k' : α → Result} (he : e' = e)
    (hk : ∀ a, Follows dest (k a) (k' a)) : Follows dest (orFault e k) (orFault e' k') := by
  subst he
  cases e' with
  | ok a => exact hk a
  | error f => exact follows_fault dest f

/-- Under the same condition, or else in the same fault. -/
theorem follows_ite {dest : Option RegIdx} {c c' : Prop} [Decidable c] [Decidable c'] {x y : Result} {f : Fault}
    (hc : c' ↔ c) (hxy : Follows dest x y) :
    Follows dest (if c then x else .fault f) (if c' then y else .fault f) := by
  by_cases h : c
  · rw [if_pos h, if_pos (hc.2 h)]
    exact hxy
  · rw [if_neg h, if_neg (mt hc.1 h)]
    exact follows_fault dest f

section
variable {s s' : State} (hs : SameButRegisters s s')
include hs

theorem follows_aluRegister {op : AluOp} {rd rs1 rs2 : RegIdx} (h1 : s'.readReg rs1 = s.readReg rs1)
    (h2 : s'.readReg rs2 = s.readReg rs2) :
    Follows (some rd) (aluRegister op rd rs1 rs2 s) (aluRegister op rd rs1 rs2 s') :=
  follows_finishWrite hs (by rw [h1, h2]) hs.nextPc

theorem follows_aluImmediate {op : AluOp} {rd rs1 : RegIdx} {imm : Word} (h1 : s'.readReg rs1 = s.readReg rs1) :
    Follows (some rd) (aluImmediate op rd rs1 imm s) (aluImmediate op rd rs1 imm s') :=
  follows_finishWrite hs (by rw [h1]) hs.nextPc

theorem follows_branch {op : BranchOp} {rs1 rs2 : RegIdx} {offset : BitVec 13} (h1 : s'.readReg rs1 = s.readReg rs1)
    (h2 : s'.readReg rs2 = s.readReg rs2) :
    Follows none (branch op rs1 rs2 offset s) (branch op rs1 rs2 offset s') :=
  follows_finish hs (by rw [h1, h2, hs.relativeTarget, hs.nextPc])

theorem follows_execJalr {rd rs1 : RegIdx} {imm : BitVec 12} (h1 : s'.readReg rs1 = s.readReg rs1) :
    Follows (some rd) (execJalr rd rs1 imm s) (execJalr rd rs1 imm s') :=
  follows_finishWrite hs hs.nextPc (by rw [State.registerTarget, h1, State.registerTarget])

theorem follows_execLw {rd rs1 : RegIdx} {imm : BitVec 12} (h1 : s'.readReg rs1 = s.readReg rs1) :
    Follows (some rd) (execLw rd rs1 imm s) (execLw rd rs1 imm s') :=
  follows_orFault (by rw [State.effectiveAddress, h1, hs.memRead, State.effectiveAddress])
    fun _ => follows_finishWrite hs rfl hs.nextPc

theorem follows_execSw {rs1 rs2 : RegIdx} {imm : BitVec 12} (h1 : s'.readReg rs1 = s.readReg rs1)
    (h2 : s'.readReg rs2 = s.readReg rs2) : Follows none (execSw rs1 rs2 imm s) (execSw rs1 rs2 imm s') := by
  have haddr : s'.effectiveAddress rs1 imm = s.effectiveAddress rs1 imm := by
    rw [State.effectiveAddress, h1, State.effectiveAddress]
  rw [execSw_eq, execSw_eq, haddr, h2]
  exact follows_ite (by rw [hs.accessible]) (follows_finish (hs.storeWord _ _) hs.nextPc)

theorem follows_execCsrw {csr : CsrIdx} {rs1 : RegIdx} (h1 : s'.readReg rs1 = s.readReg rs1) :
    Follows none (execCsrw csr rs1 s) (execCsrw csr rs1 s') := by
  rw [execCsrw_eq, execCsrw_eq, h1]
  exact follows_ite .rfl (follows_finish (hs.pushHost _) hs.nextPc)

/-- An instruction's outcome follows its sources, by the shared operation it is made of. -/
theorem follows_exec (i : Instr) (hr : ∀ r ∈ sources i, s'.readReg r = s.readReg r) :
    Follows (destination i) (exec i s) (exec i s') := by
  cases i with
  | add | sub | sll | slt | sltu | xor | srl | sra | or | and =>
    exact follows_aluRegister hs (hr _ (by simp [sources])) (hr _ (by simp [sources]))
  | addi | slti | sltiu | xori | ori | andi | slli | srli | srai | lui =>
    exact follows_aluImmediate hs (hr _ (by simp [sources]))
  | auipc => exact follows_finishWrite hs (hs.relativeTarget _) hs.nextPc
  | jal => exact follows_finishWrite hs hs.nextPc (hs.relativeTarget _)
  | jalr => exact follows_execJalr hs (hr _ (by simp [sources]))
  | beq | bne | blt | bge | bltu | bgeu =>
    exact follows_branch hs (hr _ (by simp [sources])) (hr _ (by simp [sources]))
  | lw => exact follows_execLw hs (hr _ (by simp [sources]))
  | sw => exact follows_execSw hs (hr _ (by simp [sources])) (hr _ (by simp [sources]))
  | csrr => exact follows_orFault (hs.readCsr _) fun _ => follows_finishWrite hs rfl hs.nextPc
  | csrw => exact follows_execCsrw hs (hr _ (by simp [sources]))

end

/-- Settles O45: `Follows` is the statement for one instruction. -/
theorem readsOnlyTheSources : Obligations.ReadsOnlyTheSources :=
  fun i _ _ hs hr => follows_exec hs i hr

end Sys2Proof.Machine
end

section
/-! PROOFS. The family of 20_memory.md: a load and a fetch after a store, the canonical form, and what leaves memory
alone. -/

namespace Sys2Proof.Machine

/-! ### The canonical form -/

/-- A listed byte is the one read at its address: a later entry has a greater address. -/
theorem Memory.get_of_mem {m : Memory} (hp : m.Pairwise (fun c d => c.1 < d.1)) {c : Host.Cell} (hc : c ∈ m) :
    m.get c.1 = c.2 := by
  induction m with
  | nil => cases hc
  | cons d rest ih =>
    obtain ⟨hd, hrest⟩ := List.pairwise_cons.1 hp
    rcases List.mem_cons.1 hc with rfl | hc
    · simp [Memory.get]
    · rw [Memory.get, if_neg (hd c hc).ne', ih hrest hc]

/-- A byte that reads other than an unlisted one is listed. -/
theorem Memory.mem_of_get_ne {m : Memory} {a : Nat} (h : m.get a ≠ Config.unlistedByte) : (a, m.get a) ∈ m := by
  induction m with
  | nil => exact absurd rfl h
  | cons d rest ih =>
    unfold Memory.get at h ⊢
    by_cases ha : a = d.1
    · simp [ha]
    · rw [if_neg ha] at h ⊢
      exact List.mem_cons_of_mem _ (ih h)

/-- In canonical form the entries are the bytes that read other than an unlisted one. -/
theorem Memory.mem_iff {m : Memory} (hm : m.wf) (c : Host.Cell) :
    c ∈ m ↔ c.1 < 2 ^ 32 ∧ c.2 ≠ Config.unlistedByte ∧ m.get c.1 = c.2 := by
  obtain ⟨hp, hn⟩ := hm
  constructor
  · intro hc
    exact ⟨(hn c hc).1, (hn c hc).2, Memory.get_of_mem hp hc⟩
  · rintro ⟨-, hv, hget⟩
    have hc := Memory.mem_of_get_ne (m := m) (a := c.1) (by rwa [hget])
    rwa [hget] at hc

/-- Settles O27: the two lists have the same entries, and each holds them in the order of their addresses. -/
theorem canonicalMemoryIsDetermined : Obligations.CanonicalMemoryIsDetermined := by
  intro m m' hm hm' hget
  have : Std.Irrefl (fun c d : Host.Cell => c.1 < d.1) := ⟨fun c => Nat.lt_irrefl c.1⟩
  have : Std.Antisymm (fun c d : Host.Cell => c.1 < d.1) := ⟨fun _ _ h h' => absurd h' (Nat.lt_asymm h)⟩
  refine hm.1.eq_of_mem_iff hm'.1 fun c => ?_
  rw [Memory.mem_iff hm, Memory.mem_iff hm']
  refine and_congr_right fun hc => ?_
  have hsame : m.get c.1 = m'.get c.1 := by
    simpa only [BitVec.toNat_ofNatLT] using hget (BitVec.ofNatLT c.1 hc)
  rw [hsame]

/-! ### Words of memory -/

/-- The four bytes of an aligned word lie apart from those of another. -/
theorem add_ne_add_of_aligned {a b i j : Word} (ha : aligned a = true) (hb : aligned b = true) (hne : b ≠ a)
    (hi : i < 4#32) (hj : j < 4#32) : b + i ≠ a + j := by
  rw [aligned_iff] at ha hb
  bv_omega

/-- A store leaves every other aligned word as before (20_memory.md R48). -/
theorem Memory.getWord_setWord_of_ne {m : Memory} {a b : Word} (v : Word) (hm : m.wf) (ha : aligned a = true)
    (hb : aligned b = true) (hne : b ≠ a) : (m.setWord a v).getWord b = m.getWord b := by
  have hbyte (i : Word) (hi : i < 4#32) : (m.setWord a v).get (b + i).toNat = m.get (b + i).toNat := by
    have hapart (j : Word) (hj : j < 4#32) : b + i ≠ a + j := add_ne_add_of_aligned ha hb hne hi hj
    exact Memory.get_setWord_of_ne hm (by simpa using hapart 0#32 (by decide)) (hapart 1#32 (by decide))
      (hapart 2#32 (by decide)) (hapart 3#32 (by decide))
  have h0 : (m.setWord a v).get b.toNat = m.get b.toNat := by simpa using hbyte 0#32 (by decide)
  rw [Memory.getWord, h0, hbyte 1#32 (by decide), hbyte 2#32 (by decide), hbyte 3#32 (by decide), Memory.getWord]

theorem State.aligned_of_accessible {s : State} {a : Word} (h : s.accessible a = true) : aligned a = true :=
  (Bool.and_eq_true_iff.1 h).1

/-! ### LW and SW as whole instructions -/

/-- LW in one line (42_load_store.md R161). -/
theorem execLw_eq (rd rs1 : RegIdx) (imm : BitVec 12) (s : State) :
    execLw rd rs1 imm s =
      if s.accessible (s.effectiveAddress rs1 imm) then
        finishWrite s rd (s.mem.getWord (s.effectiveAddress rs1 imm)) s.nextPc
      else .fault .loadFailure := by
  unfold execLw State.memRead
  split <;> rfl

/-- A LW whose address the memory accepts completes with the word there (42_load_store.md R161). -/
theorem exec_lw_of_accessible {rd rs1 : RegIdx} {imm : BitVec 12} {s : State}
    (h : s.accessible (s.effectiveAddress rs1 imm) = true) :
    exec (.lw rd rs1 imm) s =
      .next ((s.writeReg rd (s.mem.getWord (s.effectiveAddress rs1 imm))).complete s.nextPc) :=
  (execLw_eq rd rs1 imm s).trans (if_pos h)

/-- A SW whose address the memory accepts completes (42_load_store.md R162). -/
theorem exec_sw_of_accessible {rs1 rs2 : RegIdx} {imm : BitVec 12} {s : State}
    (h : s.accessible (s.effectiveAddress rs1 imm) = true) :
    exec (.sw rs1 rs2 imm) s =
      .next ((s.storeWord (s.effectiveAddress rs1 imm) (s.readReg rs2)).complete s.nextPc) :=
  (execSw_eq rs1 rs2 imm s).trans (if_pos h)

/-- Everything a completed SW can be. -/
theorem exec_sw_next {rs1 rs2 : RegIdx} {imm : BitVec 12} {s t : State} (h : exec (.sw rs1 rs2 imm) s = .next t) :
    s.accessible (s.effectiveAddress rs1 imm) = true ∧
      t = (s.storeWord (s.effectiveAddress rs1 imm) (s.readReg rs2)).complete s.nextPc := by
  obtain ⟨u, hu, h⟩ := orFault_next h
  obtain ⟨ha, rfl⟩ := State.memWrite_ok hu
  exact ⟨ha, finish_next h⟩

@[simp] theorem State.effectiveAddress_storeWord (s : State) (a v : Word) (rs1 : RegIdx) (imm : BitVec 12) :
    (s.storeWord a v).effectiveAddress rs1 imm = s.effectiveAddress rs1 imm := rfl

@[simp] theorem State.effectiveAddress_complete (s : State) (next : Word) (rs1 : RegIdx) (imm : BitVec 12) :
    (s.complete next).effectiveAddress rs1 imm = s.effectiveAddress rs1 imm := rfl

@[simp] theorem State.accessible_storeWord (s : State) (a v b : Word) :
    (s.storeWord a v).accessible b = s.accessible b := State.accessible_congr (State.memValid_storeWord s a v) b

@[simp] theorem State.accessible_complete (s : State) (next b : Word) :
    (s.complete next).accessible b = s.accessible b := State.accessible_congr (State.memValid_complete s next) b

/-- Settles O24: the LW reads the four bytes that the SW wrote, or four bytes apart from them. -/
theorem loadAfterStore : Obligations.LoadAfterStore := by
  intro rs1 rs2 imm s t hm hsw
  obtain ⟨ha, rfl⟩ := exec_sw_next hsw
  refine ⟨fun rd rs imm' hrd haddr => ?_, fun rd rs imm' hin hne => ?_⟩
  · refine ⟨_, exec_lw_of_accessible (by simpa [haddr] using ha), ?_⟩
    rw [haddr]
    simp [State.readReg_writeReg_self, hrd, Memory.getWord_setWord _ _ hm]
  · have hb := (accessible_iff _ _).2 hin
    simp only [State.effectiveAddress_complete, State.effectiveAddress_storeWord, State.accessible_complete,
      State.accessible_storeWord] at hb hne
    have hsame := Memory.getWord_setWord_of_ne (s.readReg rs2) hm (State.aligned_of_accessible ha)
      (State.aligned_of_accessible hb) hne
    refine ⟨_, _, exec_lw_of_accessible (by simpa using hb), exec_lw_of_accessible hb, ?_⟩
    simp [State.readReg_writeReg_self, hsame]

/-! ### A fetch after a store -/

theorem State.fetch_of_accessible {s : State} (h : s.accessible s.pc = true) : s.fetch = .ok (s.mem.getWord s.pc) :=
  if_pos h

/-- A store is seen by every later fetch of its address (20_memory.md R52). -/
theorem fetch_of_mem_eq_setWord {s u : State} {a v : Word} (hm : s.mem.wf) (ha : s.accessible a = true)
    (hmem : u.mem = s.mem.setWord a v) (hvalid : u.memValid = s.memValid) (hpc : u.pc = a) : u.fetch = .ok v := by
  have hu : u.accessible u.pc = true := by rw [State.accessible_congr hvalid, hpc, ha]
  rw [State.fetch_of_accessible hu, hmem, hpc, Memory.getWord_setWord _ _ hm]

/-- A running step whose word decodes is the decoded instruction (40_step_and_decode.md R90). -/
theorem step_of_decode {s : State} {w : Word} {i : Instr} (hr : s.runState = .running) (hf : s.fetch = .ok w)
    (hd : decode w = .ok i) : step s = exec i s := by
  rw [step_of_fetch hr hf, hd]

/-- Settles O25: the next state itself is one of the states with the stored memory. -/
theorem fetchSeesTheStore : Obligations.FetchSeesTheStore := by
  intro rs1 rs2 imm s t hm hsw
  obtain ⟨ha, rfl⟩ := exec_sw_next hsw
  exact ⟨fun u hmem hvalid hpc => fetch_of_mem_eq_setWord hm ha hmem hvalid hpc,
    fun i hr hpc hd => step_of_decode hr (fetch_of_mem_eq_setWord hm ha rfl rfl hpc) hd⟩

theorem decode_encode_sw (rs1 rs2 : RegIdx) (imm : BitVec 12) :
    decode (encode (.sw rs1 rs2 imm)) = .ok (.sw rs1 rs2 imm) := by
  unfold encode
  rw [decode_store (fieldOpcode_encodeS ..)]
  simp [decodeStore]

/-- Settles O26: the step runs the word fetched before the store, and the store is at the pc. -/
theorem storeToItsOwnAddress : Obligations.StoreToItsOwnAddress := by
  intro rs1 rs2 imm s hm hr hf haddr
  obtain ⟨ha, -⟩ := State.fetch_ok hf
  have hstep := (step_of_decode hr hf (decode_encode_sw rs1 rs2 imm)).trans
    (exec_sw_of_accessible (rs2 := rs2) (haddr.symm ▸ ha))
  rw [haddr] at hstep
  exact ⟨_, hstep, s.nextPc_eq_displaced, fun u hmem hvalid hpc => fetch_of_mem_eq_setWord hm ha hmem hvalid hpc⟩

/-! ### What leaves memory alone -/

/-- Settles O46: of the four things that a completed instruction can do, the store is the one that writes memory. -/
theorem onlyStoresChangeMemory : Obligations.OnlyStoresChangeMemory := by
  intro i s t h hnot
  obtain ⟨rd, v, next, rfl⟩ | ⟨next, rfl⟩ | ⟨rs1, rs2, imm, hsw, -⟩ | ⟨rs1, -, rfl⟩ := exec_next h
  · rfl
  · rfl
  · exact absurd hsw (hnot rs1 rs2 imm)
  · rfl

/-! ### A placed word -/

/-- The decoder of a table row's bits is the decoder of the word they make. -/
theorem decode_tableWord {nbits w : Nat} {i : Instr} (h : decodeTableWord nbits w = some i) :
    decode (tableWord nbits w) = .ok i := by
  simp only [decodeTableWord, decodeBytes, wordOfBytes_byteOfWord] at h
  cases hd : decode (tableWord nbits w) with
  | ok j => simpa [hd] using h
  | error c => simp [hd] at h

theorem aligned_and_mask (a : Word) : aligned (a &&& 0xFFFFFFFC#32) = true := by
  unfold aligned
  rw [beq_iff_eq, BitVec.extractLsb'_and]
  simp

/-- A list of ranges, with the address added where no range holds it, holds the address. -/
theorem any_contains_extended (ranges : List AddressRange) (a : Word) :
    (if ranges.any (fun r => r.contains a) then ranges else ⟨a, a⟩ :: ranges).any (fun r => r.contains a) = true := by
  split
  · assumption
  · simp [AddressRange.contains, BitVec.ule]

theorem State.aligned_pc_withFetchWord (s : State) (nbits w : Nat) : aligned (s.withFetchWord nbits w).pc = true := by
  unfold State.withFetchWord
  by_cases h : aligned s.pc = true
  · simp [h]
  · simp [h, aligned_and_mask]

/-- The address that `withFetchWord` fetches from is one that it makes the memory accept. -/
theorem State.accessible_withFetchWord (s : State) (nbits w : Nat) :
    (s.withFetchWord nbits w).accessible (s.withFetchWord nbits w).pc = true :=
  Bool.and_eq_true_iff.2 ⟨s.aligned_pc_withFetchWord nbits w, any_contains_extended s.memValid _⟩

/-- The placed word is the one fetched next. -/
theorem State.fetch_withFetchWord {s : State} (nbits w : Nat) (hm : s.mem.wf) :
    (s.withFetchWord nbits w).fetch = .ok (tableWord nbits w) :=
  (State.fetch_of_accessible (s.accessible_withFetchWord nbits w)).trans
    (congrArg Except.ok (Memory.getWord_setWord _ _ hm))

/-- Settles O59: the placed word is fetched, and the decoder reads the instruction from it. -/
theorem placedWordIsRun : Obligations.PlacedWordIsRun := by
  intro s w i hm hd
  exact step_of_decode rfl (State.fetch_withFetchWord 32 w hm) (decode_tableWord hd)

end Sys2Proof.Machine
end

section
/-! PROOFS. The family of 30_encoding.md: the round trip of the decoder and the encoder, the opcode table's rows, the
classes of illegal words and the immediates. -/

namespace Sys2Proof.Machine

/-! ### Every word is its own fields, in every format -/

theorem encodeR_fields (w : Word) :
    encodeR (fieldFunct7 w) (fieldRs2 w) (fieldRs1 w) (fieldFunct3 w) (fieldRd w) (fieldOpcode w) = w := by
  unfold encodeR fieldFunct7 fieldRs2 fieldRs1 fieldFunct3 fieldRd fieldOpcode
  grind

theorem encodeI_fields (w : Word) :
    encodeI (fieldImmI w) (fieldRs1 w) (fieldFunct3 w) (fieldRd w) (fieldOpcode w) = w := by
  unfold encodeI fieldImmI fieldRs1 fieldFunct3 fieldRd fieldOpcode
  grind

theorem encodeS_fields (w : Word) :
    encodeS (fieldImmS w) (fieldRs2 w) (fieldRs1 w) (fieldFunct3 w) (fieldOpcode w) = w := by
  unfold encodeS fieldImmS fieldRs2 fieldRs1 fieldFunct3 fieldOpcode
  grind

/-- The offset's scatter is undone bit by bit. -/
theorem encodeB_fields (w : Word) :
    encodeB (fieldImmB w) (fieldRs2 w) (fieldRs1 w) (fieldFunct3 w) (fieldOpcode w) = w := by
  unfold encodeB fieldImmB fieldRs2 fieldRs1 fieldFunct3 fieldOpcode
  apply BitVec.eq_of_getLsbD_eq
  intro i hi
  simp only [BitVec.getLsbD_append, BitVec.getLsbD_extractLsb']
  interval_cases i <;> simp

theorem encodeU_fields (w : Word) : encodeU (fieldImmU w) (fieldRd w) (fieldOpcode w) = w := by
  unfold encodeU fieldImmU fieldRd fieldOpcode
  grind

/-- The offset's scatter is undone bit by bit. -/
theorem encodeJ_fields (w : Word) : encodeJ (fieldImmJ w) (fieldRd w) (fieldOpcode w) = w := by
  unfold encodeJ fieldImmJ fieldRd fieldOpcode
  apply BitVec.eq_of_getLsbD_eq
  intro i hi
  simp only [BitVec.getLsbD_append, BitVec.getLsbD_extractLsb']
  interval_cases i <;> simp

theorem evenOffset_append_zero {n : Nat} (x : BitVec n) : evenOffset (x ++ 0#1) = true := by
  rw [evenOffset, BitVec.getLsbD_append]
  rfl

theorem evenOffset_fieldImmB (w : Word) : evenOffset (fieldImmB w) = true := evenOffset_append_zero _

theorem evenOffset_fieldImmJ (w : Word) : evenOffset (fieldImmJ w) = true := evenOffset_append_zero _

/-! ### A decoded instruction stands for its word -/

/-- The instruction is one that the word `w` encodes. -/
def StandsFor (i : Instr) (w : Word) : Prop := i.wellFormed = true ∧ encode i = w

theorem standsFor_of_decodeAluReg {w : Word} {i : Instr} (hop : fieldOpcode w = opAluReg) (h : decodeAluReg w = .ok i) :
    StandsFor i w := by
  have hw := encodeR_fields w
  unfold decodeAluReg at h
  split at h
  next h7 =>
    rw [hop, h7] at hw
    split at h
    all_goals
      next h3 =>
        cases h
        exact ⟨rfl, by rwa [h3] at hw⟩
  next =>
    split_ifs at h with h73 h73
    all_goals
      cases h
      obtain ⟨h7, h3⟩ := h73
      exact ⟨rfl, by rwa [hop, h7, h3] at hw⟩

theorem standsFor_of_decodeAluImm {w : Word} {i : Instr} (hop : fieldOpcode w = opAluImm) (h : decodeAluImm w = .ok i) :
    StandsFor i w := by
  have hI := encodeI_fields w
  have hR := encodeR_fields w
  rw [hop] at hI hR
  unfold decodeAluImm at h
  split at h
  case h_7 h3 | h_8 h3 =>
    split_ifs at h
    all_goals
      next h7 =>
        cases h
        exact ⟨rfl, by rwa [h7, h3] at hR⟩
  all_goals
    next h3 =>
      cases h
      exact ⟨rfl, by rwa [h3] at hI⟩

theorem standsFor_of_decodeBranch {w : Word} {i : Instr} (hop : fieldOpcode w = opBranch) (h : decodeBranch w = .ok i) :
    StandsFor i w := by
  have hw := encodeB_fields w
  rw [hop] at hw
  unfold decodeBranch at h
  split at h
  case h_7 => cases h
  all_goals
    next h3 =>
      cases h
      exact ⟨evenOffset_fieldImmB w, by rwa [h3] at hw⟩

theorem standsFor_of_decodeLoad {w : Word} {i : Instr} (hop : fieldOpcode w = opLoad) (h : decodeLoad w = .ok i) :
    StandsFor i w := by
  have hw := encodeI_fields w
  unfold decodeLoad at h
  split_ifs at h with h3
  cases h
  exact ⟨rfl, by rwa [hop, h3] at hw⟩

theorem standsFor_of_decodeStore {w : Word} {i : Instr} (hop : fieldOpcode w = opStore) (h : decodeStore w = .ok i) :
    StandsFor i w := by
  have hw := encodeS_fields w
  unfold decodeStore at h
  split_ifs at h with h3
  cases h
  exact ⟨rfl, by rwa [hop, h3] at hw⟩

theorem standsFor_of_decodeJalr {w : Word} {i : Instr} (hop : fieldOpcode w = opJalr) (h : decodeJalr w = .ok i) :
    StandsFor i w := by
  have hw := encodeI_fields w
  unfold decodeJalr at h
  split_ifs at h with h3
  cases h
  exact ⟨rfl, by rwa [hop, h3] at hw⟩

theorem standsFor_of_decodeSystem {w : Word} {i : Instr} (hop : fieldOpcode w = opSystem) (h : decodeSystem w = .ok i) :
    StandsFor i w := by
  have hw := encodeI_fields w
  unfold decodeSystem at h
  split_ifs at h with hread hwrite
  · cases h
    obtain ⟨h3, hrs1⟩ := hread
    exact ⟨rfl, by rwa [hop, h3, hrs1] at hw⟩
  · cases h
    obtain ⟨h3, hrd⟩ := hwrite
    exact ⟨rfl, by rwa [hop, h3, hrd] at hw⟩

theorem standsFor_lui {w : Word} (hop : fieldOpcode w = opLui) : StandsFor (.lui (fieldRd w) (fieldImmU w)) w :=
  ⟨rfl, by rw [encode, ← hop, encodeU_fields]⟩

theorem standsFor_auipc {w : Word} (hop : fieldOpcode w = opAuipc) : StandsFor (.auipc (fieldRd w) (fieldImmU w)) w :=
  ⟨rfl, by rw [encode, ← hop, encodeU_fields]⟩

theorem standsFor_jal {w : Word} (hop : fieldOpcode w = opJal) : StandsFor (.jal (fieldRd w) (fieldImmJ w)) w :=
  ⟨evenOffset_fieldImmJ w, by rw [encode, ← hop, encodeJ_fields]⟩

/-- Settles O3: each major opcode's decoder inverts the encoder of its formats. -/
theorem encodeOfDecode : Obligations.EncodeOfDecode := by
  intro w i h
  obtain hop | hop | hop | hop | hop | hop | hop | hop | hop | hop := fieldOpcode_of_decode h
  · exact standsFor_of_decodeAluReg hop (decode_aluReg hop ▸ h)
  · exact standsFor_of_decodeAluImm hop (decode_aluImm hop ▸ h)
  · cases (decode_lui hop).symm.trans h
    exact standsFor_lui hop
  · cases (decode_auipc hop).symm.trans h
    exact standsFor_auipc hop
  · exact standsFor_of_decodeLoad hop (decode_load hop ▸ h)
  · exact standsFor_of_decodeStore hop (decode_store hop ▸ h)
  · exact standsFor_of_decodeBranch hop (decode_branch hop ▸ h)
  · cases (decode_jal hop).symm.trans h
    exact standsFor_jal hop
  · exact standsFor_of_decodeJalr hop (decode_jalr hop ▸ h)
  · exact standsFor_of_decodeSystem hop (decode_system hop ▸ h)

/-! ### The decoder inverts the encoder -/

/-- Settles O2: by the format of the instruction, each field of its word reads the operand back. -/
theorem decodeOfEncode : Obligations.DecodeOfEncode := by
  intro i hwf
  cases i with
  | add | sub | sll | slt | sltu | xor | srl | sra | or | and =>
    exact (decode_aluReg (fieldOpcode_encodeR ..)).trans (by simp [decodeAluReg])
  | addi | slti | sltiu | xori | ori | andi =>
    exact (decode_aluImm (fieldOpcode_encodeI ..)).trans (by simp [decodeAluImm])
  | slli | srli | srai => exact (decode_aluImm (fieldOpcode_encodeR ..)).trans (by simp [decodeAluImm])
  | lui => exact (decode_lui (fieldOpcode_encodeU ..)).trans (by simp)
  | auipc => exact (decode_auipc (fieldOpcode_encodeU ..)).trans (by simp)
  | lw => exact (decode_load (fieldOpcode_encodeI ..)).trans (by simp [decodeLoad])
  | sw rs1 rs2 imm => exact decode_encode_sw rs1 rs2 imm
  | beq | bne | blt | bge | bltu | bgeu =>
    exact (decode_branch (fieldOpcode_encodeB ..)).trans (by simp [decodeBranch, fieldImmB_encodeB _ _ _ _ _ hwf])
  | jal => exact (decode_jal (fieldOpcode_encodeJ ..)).trans (by simp [fieldImmJ_encodeJ _ _ _ hwf])
  | jalr => exact (decode_jalr (fieldOpcode_encodeI ..)).trans (by simp [decodeJalr])
  | csrr | csrw => exact (decode_system (fieldOpcode_encodeI ..)).trans (by simp [decodeSystem])

/-- Both halves of the round trip. -/
theorem decode_eq_ok_iff {w : Word} {i : Instr} : decode w = .ok i ↔ StandsFor i w := by
  refine ⟨encodeOfDecode w i, ?_⟩
  rintro ⟨hwf, rfl⟩
  exact decodeOfEncode i hwf

/-! ### The rows of the opcode table -/

theorem row_holds_encode (i : Instr) : i.row.holds (encode i) = true := by
  cases i with
  | add rd rs1 rs2 => exact Laws.FixedBits.add rd rs1 rs2
  | sub rd rs1 rs2 => exact Laws.FixedBits.sub rd rs1 rs2
  | sll rd rs1 rs2 => exact Laws.FixedBits.sll rd rs1 rs2
  | slt rd rs1 rs2 => exact Laws.FixedBits.slt rd rs1 rs2
  | sltu rd rs1 rs2 => exact Laws.FixedBits.sltu rd rs1 rs2
  | xor rd rs1 rs2 => exact Laws.FixedBits.xor rd rs1 rs2
  | srl rd rs1 rs2 => exact Laws.FixedBits.srl rd rs1 rs2
  | sra rd rs1 rs2 => exact Laws.FixedBits.sra rd rs1 rs2
  | or rd rs1 rs2 => exact Laws.FixedBits.or rd rs1 rs2
  | and rd rs1 rs2 => exact Laws.FixedBits.and rd rs1 rs2
  | addi rd rs1 imm => exact Laws.FixedBits.addi rd rs1 imm
  | slti rd rs1 imm => exact Laws.FixedBits.slti rd rs1 imm
  | sltiu rd rs1 imm => exact Laws.FixedBits.sltiu rd rs1 imm
  | xori rd rs1 imm => exact Laws.FixedBits.xori rd rs1 imm
  | ori rd rs1 imm => exact Laws.FixedBits.ori rd rs1 imm
  | andi rd rs1 imm => exact Laws.FixedBits.andi rd rs1 imm
  | slli rd rs1 shamt => exact Laws.FixedBits.slli rd rs1 shamt
  | srli rd rs1 shamt => exact Laws.FixedBits.srli rd rs1 shamt
  | srai rd rs1 shamt => exact Laws.FixedBits.srai rd rs1 shamt
  | lui rd imm20 => exact Laws.FixedBits.lui rd imm20
  | auipc rd imm20 => exact Laws.FixedBits.auipc rd imm20
  | lw rd rs1 imm => exact Laws.FixedBits.lw rd rs1 imm
  | sw rs1 rs2 imm => exact Laws.FixedBits.sw rs1 rs2 imm
  | beq rs1 rs2 offset => exact Laws.FixedBits.beq rs1 rs2 offset
  | bne rs1 rs2 offset => exact Laws.FixedBits.bne rs1 rs2 offset
  | blt rs1 rs2 offset => exact Laws.FixedBits.blt rs1 rs2 offset
  | bge rs1 rs2 offset => exact Laws.FixedBits.bge rs1 rs2 offset
  | bltu rs1 rs2 offset => exact Laws.FixedBits.bltu rs1 rs2 offset
  | bgeu rs1 rs2 offset => exact Laws.FixedBits.bgeu rs1 rs2 offset
  | jal rd offset => exact Laws.FixedBits.jal rd offset
  | jalr rd rs1 imm => exact Laws.FixedBits.jalr rd rs1 imm
  | csrr rd csr => exact Laws.FixedBits.csrr rd csr
  | csrw csr rs1 => exact Laws.FixedBits.csrw csr rs1

theorem row_mem_opcodeTable (i : Instr) : i.row ∈ opcodeTable := by
  cases i <;> simp [opcodeTable, tableInstrs, Instr.row]

/-- A field that a row's mask covers whole is the row's own. -/
theorem extractLsb'_of_and {w mask fixed : Word} {start len : Nat} (h : w &&& mask = fixed)
    (hmask : mask.extractLsb' start len = BitVec.allOnes len) :
    w.extractLsb' start len = fixed.extractLsb' start len := by
  rw [← h, BitVec.extractLsb'_and, hmask, BitVec.and_allOnes]

theorem fields_of_and_maskU {w fixed : Word} (h : w &&& 0x0000007F#32 = fixed) : fieldOpcode w = fieldOpcode fixed :=
  extractLsb'_of_and h (by decide)

theorem fields_of_and_maskI {w fixed : Word} (h : w &&& 0x0000707F#32 = fixed) :
    fieldOpcode w = fieldOpcode fixed ∧ fieldFunct3 w = fieldFunct3 fixed :=
  ⟨extractLsb'_of_and h (by decide), extractLsb'_of_and h (by decide)⟩

theorem fields_of_and_maskR {w fixed : Word} (h : w &&& 0xFE00707F#32 = fixed) :
    fieldOpcode w = fieldOpcode fixed ∧ fieldFunct3 w = fieldFunct3 fixed ∧ fieldFunct7 w = fieldFunct7 fixed :=
  ⟨extractLsb'_of_and h (by decide), extractLsb'_of_and h (by decide), extractLsb'_of_and h (by decide)⟩

theorem fields_of_and_maskRead {w fixed : Word} (h : w &&& 0x000FF07F#32 = fixed) :
    fieldOpcode w = fieldOpcode fixed ∧ fieldFunct3 w = fieldFunct3 fixed ∧ fieldRs1 w = fieldRs1 fixed :=
  ⟨extractLsb'_of_and h (by decide), extractLsb'_of_and h (by decide), extractLsb'_of_and h (by decide)⟩

theorem fields_of_and_maskWrite {w fixed : Word} (h : w &&& 0x00007FFF#32 = fixed) :
    fieldOpcode w = fieldOpcode fixed ∧ fieldFunct3 w = fieldFunct3 fixed ∧ fieldRd w = fieldRd fixed :=
  ⟨extractLsb'_of_and h (by decide), extractLsb'_of_and h (by decide), extractLsb'_of_and h (by decide)⟩

/-- A row's fixed bits are all that its decoder looks at. -/
theorem decodes_of_row {w : Word} (i : Instr) (h : w &&& i.row.mask = i.row.fixed) : ∃ j, decode w = .ok j := by
  cases i <;> dsimp only [Instr.row] at h
  case add | sub | sll | slt | sltu | xor | srl | sra | or | and =>
    obtain ⟨hop, h3, h7⟩ := fields_of_and_maskR h
    rw [decode_aluReg hop, decodeAluReg, h7, h3]
    exact ⟨_, rfl⟩
  case addi | slti | sltiu | xori | ori | andi =>
    obtain ⟨hop, h3⟩ := fields_of_and_maskI h
    rw [decode_aluImm hop, decodeAluImm, h3]
    exact ⟨_, rfl⟩
  case slli | srli | srai =>
    obtain ⟨hop, h3, h7⟩ := fields_of_and_maskR h
    rw [decode_aluImm hop, decodeAluImm, h7, h3]
    exact ⟨_, rfl⟩
  case lui => exact ⟨_, decode_lui (fields_of_and_maskU h)⟩
  case auipc => exact ⟨_, decode_auipc (fields_of_and_maskU h)⟩
  case lw =>
    obtain ⟨hop, h3⟩ := fields_of_and_maskI h
    exact ⟨_, (decode_load hop).trans (if_pos h3)⟩
  case sw =>
    obtain ⟨hop, h3⟩ := fields_of_and_maskI h
    exact ⟨_, (decode_store hop).trans (if_pos h3)⟩
  case beq | bne | blt | bge | bltu | bgeu =>
    obtain ⟨hop, h3⟩ := fields_of_and_maskI h
    rw [decode_branch hop, decodeBranch, h3]
    exact ⟨_, rfl⟩
  case jal => exact ⟨_, decode_jal (fields_of_and_maskU h)⟩
  case jalr =>
    obtain ⟨hop, h3⟩ := fields_of_and_maskI h
    exact ⟨_, (decode_jalr hop).trans (if_pos h3)⟩
  case csrr =>
    obtain ⟨hop, hread⟩ := fields_of_and_maskRead h
    exact ⟨_, (decode_system hop).trans (if_pos hread)⟩
  case csrw =>
    obtain ⟨hop, h3, hrd⟩ := fields_of_and_maskWrite h
    rw [decode_system hop, decodeSystem, h3, hrd]
    exact ⟨_, rfl⟩

/-- The decoder accepts the words of the 33 rows (R63, R73). -/
theorem decodes_iff_row (w : Word) :
    (∃ i, decode w = .ok i) ↔ ∃ row ∈ opcodeTable, w &&& row.mask = row.fixed := by
  constructor
  · rintro ⟨i, hd⟩
    obtain ⟨-, rfl⟩ := decode_eq_ok_iff.1 hd
    exact ⟨i.row, row_mem_opcodeTable i, eq_of_beq (row_holds_encode i)⟩
  · rintro ⟨row, hmem, h⟩
    obtain ⟨i, -, rfl⟩ := List.mem_map.1 hmem
    exact decodes_of_row i h

/-! ### The decoder's records and refusals -/

theorem decodeRecord_of_decode {w : Word} {i : Instr} (h : decode w = .ok i) : decodeRecord w = .ok (recordOf i) := by
  rw [decodeRecord, h]
  rfl

theorem decodeRecord_of_illegal {w : Word} {c : IllegalClass} (h : decode w = .error c) : decodeRecord w = .error c := by
  rw [decodeRecord, h]
  rfl

theorem decode_of_decodeRecord {w : Word} {r : InstructionRecord} (h : decodeRecord w = .ok r) :
    ∃ i, decode w = .ok i ∧ r = recordOf i := by
  cases hd : decode w with
  | ok i => exact ⟨i, rfl, Except.ok.inj (h.symm.trans (decodeRecord_of_decode hd))⟩
  | error c => cases (decodeRecord_of_illegal hd).symm.trans h

/-- The decoder refuses the words of no row (R75). -/
theorem illegal_iff_no_row (w : Word) :
    (∃ c, decode w = .error c) ↔ ∀ row ∈ opcodeTable, w &&& row.mask ≠ row.fixed := by
  have hrow := decodes_iff_row w
  cases hd : decode w with
  | ok i =>
    obtain ⟨row, hmem, h⟩ := hrow.1 ⟨i, hd⟩
    exact iff_of_false (by simp) fun hno => hno row hmem h
  | error c =>
    refine iff_of_true ⟨c, rfl⟩ fun row hmem h => ?_
    obtain ⟨i, hok⟩ := hrow.2 ⟨row, hmem, h⟩
    cases hd.symm.trans hok

theorem decodeRecord_error_iff {w : Word} {c : IllegalClass} : decodeRecord w = .error c ↔ decode w = .error c := by
  refine ⟨fun h => ?_, decodeRecord_of_illegal⟩
  cases hd : decode w with
  | ok i => cases (decodeRecord_of_decode hd).symm.trans h
  | error d =>
    cases (decodeRecord_of_illegal hd).symm.trans h
    rfl

/-! ### The step of an illegal word -/

/-- What the decoder answers to a fetched word stays its answer for the whole cycle. -/
theorem answers_decoded {s : State} {w : Word} (inp : CycleInputs) (hf : s.fetch = .ok w) :
    (answers inp s).decoded = some (decodeRecord w) := by
  obtain ⟨hdata, hfail, -⟩ := answers_imem inp s
  exact decoded_of_fetch hf hdata hfail

/-- The cycle that steps an illegal word writes nothing (40_step_and_decode.md R93). -/
theorem cycle_illegal {inp : CycleInputs} {s : State} {w : Word} {c : IllegalClass} (hp : inp.hostPoll = false)
    (hs : inp.stepping s.runState = true) (hf : s.fetch = .ok w) (hd : decode w = .error c) :
    cycle inp s = .next (s, idlePorts s.pc s.runState inp (answers inp s)) := by
  obtain ⟨-, -, hreset⟩ := (stepping_iff _ _).1 hs
  have hdecoded := answers_decoded inp hf
  rw [decodeRecord_of_illegal hd] at hdecoded
  rw [cycle_of_noPoll hp, coreCycle_illegal hs hdecoded, clockEdge_quiet hp rfl rfl rfl rfl hreset]

/-- The `illegal` port is raised (R93). -/
theorem illegalPort_of_illegal {s : State} {w : Word} {c : IllegalClass} (inp : CycleInputs) (hr : s.runState = .running)
    (hf : s.fetch = .ok w) (hd : decode w = .error c) : illegalPort s.runState (answers inp s) = true := by
  simp only [illegalPort, hr, answers_decoded inp hf, decodeRecord_of_illegal hd]

/-- Settles O4: the decoder accepts a word exactly when a row matches, and a refused word's cycle writes nothing. -/
theorem illegalIffNoRowMatches : Obligations.IllegalIffNoRowMatches := by
  refine ⟨fun w => ?_, fun w a s hr hf hno => ?_⟩
  · simp only [decodeRecord_error_iff, illegal_iff_no_row]
  · obtain ⟨c, hd⟩ := (illegal_iff_no_row w).2 hno
    have hstep : step s = .refused (.illegalWord c w) := by rw [step_of_fetch hr hf, hd]
    have hcycle := cycle_illegal rfl ((stepping_iff ⟨false, a, true, false⟩ _).2 ⟨rfl, hr, rfl⟩) hf hd
    exact ⟨⟨c, hstep⟩, _, hcycle, illegalPort_of_illegal _ hr hf hd⟩

/-! ### The classes of illegal words -/

/-- The major opcodes of R64. -/
def majorOpcodes : List (BitVec 7) :=
  [opLoad, opAluImm, opAuipc, opStore, opAluReg, opLui, opBranch, opJalr, opJal, opSystem]

theorem decode_shortOrCompressed {w : Word} (h : w.extractLsb' 0 2 ≠ 0b11#2) : decode w = .error .shortOrCompressed :=
  if_pos h

theorem decode_unusedMajorOpcode {w : Word} (h2 : w.extractLsb' 0 2 = 0b11#2) (hop : fieldOpcode w ∉ majorOpcodes) :
    decode w = .error .unusedMajorOpcode := by
  simp only [majorOpcodes, List.mem_cons, List.not_mem_nil, or_false, not_or] at hop
  simp [decode, h2, hop]

/-- R64 lists bits 6 to 2 of each major opcode. -/
theorem not_mem_majorOpcodes {w : Word} (h : w.extractLsb' 2 5 ∉ majorOpcodes.map (·.extractLsb' 2 5)) :
    fieldOpcode w ∉ majorOpcodes := by
  intro hop
  have hbits : w.extractLsb' 2 5 = (fieldOpcode w).extractLsb' 2 5 := by
    unfold fieldOpcode
    grind
  exact h (hbits ▸ List.mem_map_of_mem hop)

theorem decodeAluReg_illegal {w : Word} (h0 : fieldFunct7 w ≠ 0b0000000#7)
    (h32 : ¬(fieldFunct7 w = 0b0100000#7 ∧ (fieldFunct3 w = 0b000#3 ∨ fieldFunct3 w = 0b101#3))) :
    decodeAluReg w = .error .aluBadFunction := by
  rw [and_or_left, not_or] at h32
  obtain ⟨hsub, hsra⟩ := h32
  rw [decodeAluReg, if_neg h0, if_neg hsub, if_neg hsra]

theorem decodeAluImm_illegal {w : Word}
    (h : (fieldFunct3 w = 0b001#3 ∧ fieldFunct7 w ≠ 0b0000000#7) ∨
      (fieldFunct3 w = 0b101#3 ∧ fieldFunct7 w ≠ 0b0000000#7 ∧ fieldFunct7 w ≠ 0b0100000#7)) :
    decodeAluImm w = .error .shiftBadFunction := by
  obtain ⟨h3, h0⟩ | ⟨h3, h0, h32⟩ := h
  · simp only [decodeAluImm, h3, if_neg h0]
  · simp only [decodeAluImm, h3, if_neg h0, if_neg h32]

theorem decodeBranch_illegal {w : Word} (h : fieldFunct3 w = 0b010#3 ∨ fieldFunct3 w = 0b011#3) :
    decodeBranch w = .error .branchUnusedPredicate := by
  obtain h3 | h3 := h
  · rw [decodeBranch, h3]
    rfl
  · rw [decodeBranch, h3]
    rfl

/-- Settles O5: each class is the refusal of its opcode's decoder, or of the two tests before that. -/
theorem illegalWordClasses : Obligations.IllegalWordClasses := by
  intro w
  refine ⟨decode_shortOrCompressed, ?unused, ?alu, ?shift, ?load, ?store, ?branch, ?jalr, ?csr⟩
  case unused => exact fun ⟨h2, hop⟩ => decode_unusedMajorOpcode h2 (not_mem_majorOpcodes hop)
  case alu => exact fun ⟨hop, h0, h32⟩ => (decode_aluReg hop).trans (decodeAluReg_illegal h0 h32)
  case shift => exact fun ⟨hop, h⟩ => (decode_aluImm hop).trans (decodeAluImm_illegal h)
  case load => exact fun ⟨hop, h3⟩ => (decode_load hop).trans (if_neg h3)
  case store => exact fun ⟨hop, h3⟩ => (decode_store hop).trans (if_neg h3)
  case branch => exact fun ⟨hop, h3⟩ => (decode_branch hop).trans (decodeBranch_illegal h3)
  case jalr => exact fun ⟨hop, h3⟩ => (decode_jalr hop).trans (if_neg h3)
  case csr => exact fun ⟨hop, hread, hwrite⟩ => (decode_system hop).trans ((if_neg hread).trans (if_neg hwrite))

/-! ### Immediates -/

/-- R65 to R70: the immediate that a decoded word's opcode and funct3 select; immI is left for the loads, JALR and the
ALU forms that are no shift. -/
def immediateOf (w : Word) : Option Word :=
  if fieldOpcode w = opAluReg ∨ fieldOpcode w = opSystem then none
  else if fieldOpcode w = opLui ∨ fieldOpcode w = opAuipc then some (immU (fieldImmU w))
  else if fieldOpcode w = opStore then some (immShort (fieldImmS w))
  else if fieldOpcode w = opBranch then some (immB (fieldImmB w))
  else if fieldOpcode w = opJal then some (immJ (fieldImmJ w))
  else if fieldOpcode w = opAluImm ∧ (fieldFunct3 w = 0b001#3 ∨ fieldFunct3 w = 0b101#3) then
    some (immShamt (fieldShamt w))
  else some (immShort (fieldImmI w))

theorem immediateOf_register {w : Word} (hop : fieldOpcode w = opAluReg) : immediateOf w = none := by
  rw [immediateOf, hop]
  rfl

theorem immediateOf_system {w : Word} (hop : fieldOpcode w = opSystem) : immediateOf w = none := by
  rw [immediateOf, hop]
  rfl

theorem immediateOf_upper {w : Word} (hop : fieldOpcode w = opLui ∨ fieldOpcode w = opAuipc) :
    immediateOf w = some (immU (fieldImmU w)) := by
  obtain hop | hop := hop <;> (rw [immediateOf, hop]; rfl)

theorem immediateOf_store {w : Word} (hop : fieldOpcode w = opStore) : immediateOf w = some (immShort (fieldImmS w)) := by
  rw [immediateOf, hop]
  rfl

theorem immediateOf_branch {w : Word} (hop : fieldOpcode w = opBranch) : immediateOf w = some (immB (fieldImmB w)) := by
  rw [immediateOf, hop]
  rfl

theorem immediateOf_jal {w : Word} (hop : fieldOpcode w = opJal) : immediateOf w = some (immJ (fieldImmJ w)) := by
  rw [immediateOf, hop]
  rfl

theorem immediateOf_shift {w : Word} (hop : fieldOpcode w = opAluImm)
    (h3 : fieldFunct3 w = 0b001#3 ∨ fieldFunct3 w = 0b101#3) : immediateOf w = some (immShamt (fieldShamt w)) := by
  obtain h3 | h3 := h3 <;> (rw [immediateOf, hop, h3]; rfl)

theorem immediateOf_short {w : Word}
    (h : (fieldOpcode w = opAluImm ∧ fieldFunct3 w ≠ 0b001#3 ∧ fieldFunct3 w ≠ 0b101#3) ∨
      fieldOpcode w = opLoad ∨ fieldOpcode w = opJalr) :
    immediateOf w = some (immShort (fieldImmI w)) := by
  obtain ⟨hop, h1, h5⟩ | hop | hop := h
  · rw [immediateOf, hop, if_neg (c := _ ∧ _) (by simp [h1, h5])]
    rfl
  · rw [immediateOf, hop]
    rfl
  · rw [immediateOf, hop]
    rfl

/-- The record carries the immediate that its word selects. -/
theorem immediateOf_of_decode {w : Word} {i : Instr} (h : decode w = .ok i) : immediateOf w = (recordOf i).immediate := by
  obtain ⟨hwf, rfl⟩ := decode_eq_ok_iff.1 h
  cases i with
  | add | sub | sll | slt | sltu | xor | srl | sra | or | and => exact immediateOf_register (fieldOpcode_encodeR ..)
  | addi | slti | sltiu | xori | ori | andi =>
    refine (immediateOf_short (.inl ⟨fieldOpcode_encodeI .., ?_⟩)).trans (by rw [fieldImmI_encodeI]; rfl)
    simp
  | slli | srli | srai =>
    refine (immediateOf_shift (fieldOpcode_encodeR ..) ?_).trans (by rw [fieldShamt_encodeR]; rfl)
    simp
  | lui => exact (immediateOf_upper (.inl (fieldOpcode_encodeU ..))).trans (by rw [fieldImmU_encodeU]; rfl)
  | auipc => exact (immediateOf_upper (.inr (fieldOpcode_encodeU ..))).trans (by rw [fieldImmU_encodeU]; rfl)
  | lw => exact (immediateOf_short (.inr (.inl (fieldOpcode_encodeI ..)))).trans (by rw [fieldImmI_encodeI]; rfl)
  | jalr => exact (immediateOf_short (.inr (.inr (fieldOpcode_encodeI ..)))).trans (by rw [fieldImmI_encodeI]; rfl)
  | sw => exact (immediateOf_store (fieldOpcode_encodeS ..)).trans (by rw [fieldImmS_encodeS]; rfl)
  | beq | bne | blt | bge | bltu | bgeu =>
    exact (immediateOf_branch (fieldOpcode_encodeB ..)).trans (by rw [fieldImmB_encodeB _ _ _ _ _ hwf]; rfl)
  | jal => exact (immediateOf_jal (fieldOpcode_encodeJ ..)).trans (by rw [fieldImmJ_encodeJ _ _ _ hwf]; rfl)
  | csrr | csrw => exact immediateOf_system (fieldOpcode_encodeI ..)

/-- R71. -/
theorem csrIndex_of_decodeSystem {w : Word} {i : Instr} (h : decodeSystem w = .ok i) :
    (recordOf i).csrIndex = some (fieldCsr w) := by
  unfold decodeSystem at h
  split_ifs at h <;> (cases h; rfl)

/-- `n` copies of inst[31], the sign fill of R65 to R69. -/
def signFill (w : Word) (n : Nat) : BitVec n := if w.getLsbD 31 then BitVec.allOnes n else 0#n

/-- A field whose top bit is inst[31] is sign-extended by copies of it. -/
theorem signExtend_eq_signFill {w : Word} {m : Nat} {x : BitVec m} (n : Nat) (h : x.getLsbD (m - 1) = w.getLsbD 31) :
    x.signExtend (n + m) = signFill w n ++ x := by
  apply BitVec.eq_of_getLsbD_eq
  intro i hi
  simp only [BitVec.getLsbD_signExtend, BitVec.getLsbD_append, BitVec.msb_eq_getLsbD_last, h, signFill]
  grind

theorem immShort_fieldImmI (w : Word) : immShort (fieldImmI w) = signFill w 20 ++ fieldImmI w :=
  signExtend_eq_signFill 20 (by simp [fieldImmI])

theorem immShort_fieldImmS (w : Word) :
    immShort (fieldImmS w) = signFill w 20 ++ w.extractLsb' 25 7 ++ w.extractLsb' 7 5 := by
  refine (signExtend_eq_signFill (w := w) 20 ?_).trans ?_
  · simp only [fieldImmS, BitVec.getLsbD_append, BitVec.getLsbD_extractLsb']
    rfl
  · exact BitVec.append_assoc'

theorem immB_fieldImmB (w : Word) :
    immB (fieldImmB w) = signFill w 19 ++ w.extractLsb' 31 1 ++ w.extractLsb' 7 1 ++ w.extractLsb' 25 6 ++
      w.extractLsb' 8 4 ++ 0#1 := by
  refine (signExtend_eq_signFill (w := w) 19 ?_).trans ?_
  · simp only [fieldImmB, BitVec.getLsbD_append, BitVec.getLsbD_extractLsb']
    rfl
  · rw [fieldImmB, BitVec.append_assoc', BitVec.append_assoc', BitVec.append_assoc', BitVec.append_assoc']
    rfl

theorem immJ_fieldImmJ (w : Word) :
    immJ (fieldImmJ w) = signFill w 11 ++ w.extractLsb' 31 1 ++ w.extractLsb' 12 8 ++ w.extractLsb' 20 1 ++
      w.extractLsb' 21 10 ++ 0#1 := by
  refine (signExtend_eq_signFill (w := w) 11 ?_).trans ?_
  · simp only [fieldImmJ, BitVec.getLsbD_append, BitVec.getLsbD_extractLsb']
    rfl
  · rw [fieldImmJ, BitVec.append_assoc', BitVec.append_assoc', BitVec.append_assoc', BitVec.append_assoc']
    rfl

theorem immShamt_fieldShamt (w : Word) : immShamt (fieldShamt w) = 0#27 ++ fieldShamt w :=
  BitVec.setWidth_eq_append (by decide)

/-- Settles O6: the opcode and funct3 select the immediate, whose bits are the rule's concatenation. -/
theorem immediatesOfDecodedRecords : Obligations.ImmediatesOfDecodedRecords := by
  intro w r hr
  obtain ⟨i, hd, rfl⟩ := decode_of_decodeRecord hr
  have himm := (immediateOf_of_decode hd).symm
  refine ⟨?immI, ?immS, ?immB, ?immU, ?immJ, ?shamt, ?csr, ?register⟩
  case immI => exact fun h => (himm.trans (immediateOf_short h)).trans (congrArg some (immShort_fieldImmI w))
  case immS => exact fun hop => (himm.trans (immediateOf_store hop)).trans (congrArg some (immShort_fieldImmS w))
  case immB => exact fun hop => (himm.trans (immediateOf_branch hop)).trans (congrArg some (immB_fieldImmB w))
  case immU => exact fun hop => himm.trans (immediateOf_upper hop)
  case immJ => exact fun hop => (himm.trans (immediateOf_jal hop)).trans (congrArg some (immJ_fieldImmJ w))
  case shamt =>
    exact fun ⟨hop, h3⟩ => (himm.trans (immediateOf_shift hop h3)).trans (congrArg some (immShamt_fieldShamt w))
  case csr =>
    exact fun hop => ⟨himm.trans (immediateOf_system hop), csrIndex_of_decodeSystem (decode_system hop ▸ hd)⟩
  case register => exact fun hop => himm.trans (immediateOf_register hop)

/-! ### Words of the test vectors -/

/-- Settles O1: the decoder evaluated on each word. -/
theorem sampleWordsDecode : Obligations.SampleWordsDecode :=
  ⟨rfl, rfl, rfl, rfl, rfl, rfl, rfl, rfl, rfl, rfl, rfl, rfl, rfl⟩

end Sys2Proof.Machine
end

section
/-! PROOFS. The family of 40_step_and_decode.md: the record of every decoded word, the stages over it, their agreement with
the per-instruction rules, and the step. -/

namespace Sys2Proof.Machine

/-! ### Well-formed records -/

/-- The decoder's rows are rows of R94. -/
theorem wellFormed_recordOf (i : Instr) : (recordOf i).wellFormed = true := by
  cases i <;> rfl

/-- Settles O8. -/
theorem onlyWellFormedRecordsRun : Obligations.OnlyWellFormedRecordsRun := by
  refine ⟨fun w r h => ?_, fun r s h => ?_⟩
  · obtain ⟨i, -, rfl⟩ := decode_of_decodeRecord h
    exact wellFormed_recordOf i
  · rw [runRecord, h]
    rfl

/-! ### The step -/

theorem decode_of_decodeBytes {b0 b1 b2 b3 : Byte} {i : Instr} {rest : List Byte}
    (h : decodeBytes [b0, b1, b2, b3] = .ok (i, rest)) : decode (wordOfBytes b0 b1 b2 b3) = .ok i := by
  rw [decodeBytes] at h
  cases hd : decode (wordOfBytes b0 b1 b2 b3) with
  | ok j =>
    rw [hd] at h
    cases h
    rfl
  | error c =>
    rw [hd] at h
    cases h

/-- A word of memory is its four bytes, lowest address first (20_memory.md R42). -/
theorem getWord_eq_wordOfBytes (s : State) (a : Word) :
    s.mem.getWord a = wordOfBytes (s.readByte a) (s.readByte (displaced a 1)) (s.readByte (displaced a 2))
      (s.readByte (displaced a 3)) := by
  have h1 : displaced a 1 = a + 1#32 := displaced_ofNat a 1
  have h2 : displaced a 2 = a + 2#32 := displaced_ofNat a 2
  have h3 : displaced a 3 = a + 3#32 := displaced_ofNat a 3
  rw [h1, h2, h3]
  rfl

/-- Settles O39: the four bytes are the fetched word. -/
theorem stepRunsTheDecodedInstruction : Obligations.StepRunsTheDecodedInstruction := by
  intro s i hr hin hbytes
  have hfetch := State.fetch_of_accessible ((accessible_iff s s.pc).2 hin)
  rw [getWord_eq_wordOfBytes] at hfetch
  exact step_of_decode hr hfetch (decode_of_decodeBytes hbytes)

theorem exec_keeps_runState_memValid {i : Instr} {s t : State} (h : exec i s = .next t) :
    t.runState = s.runState ∧ t.memValid = s.memValid := by
  obtain ⟨_, _, _, rfl⟩ | ⟨_, rfl⟩ | ⟨_, _, _, -, -, rfl⟩ | ⟨_, -, rfl⟩ := exec_next h <;> exact ⟨rfl, rfl⟩

/-- Settles O42. -/
theorem everyStepRetiresOne : Obligations.EveryStepRetiresOne := by
  intro s t h
  obtain ⟨_, _, hr, _, _, hexec⟩ := step_next h
  obtain ⟨hrun, hvalid⟩ := exec_keeps_runState_memValid hexec
  obtain ⟨hcycle, hinstret⟩ := exec_counts hexec
  exact ⟨hr, hrun.trans hr, hcycle, hinstret, hvalid⟩

/-- Settles O47: of the four things a completed instruction can do, one touches the queue. -/
theorem onlyCsrwSendsMessages : Obligations.OnlyCsrwSendsMessages := by
  intro i s t h
  obtain ⟨_, _, _, rfl⟩ | ⟨_, rfl⟩ | ⟨_, _, _, -, -, rfl⟩ | ⟨rs1, rfl, rfl⟩ := exec_next h
  · exact .inl rfl
  · exact .inl rfl
  · exact .inl rfl
  · exact .inr ⟨rs1, rfl, rfl⟩

/-! ### The decoded record, by opcode and function fields -/

theorem recordOf_of_decodeAluReg {w : Word} {i : Instr} (h : decodeAluReg w = .ok i) :
    ∃ op, (fieldFunct7 w, fieldFunct3 w, op) ∈ registerFunctions ∧
      recordOf i = recordAluRegister op (fieldRd w) (fieldRs1 w) (fieldRs2 w) := by
  unfold decodeAluReg at h
  split at h
  next h7 =>
    split at h
    all_goals
      next h3 =>
        cases h
        exact ⟨_, by simp [registerFunctions, h7, h3], rfl⟩
  next =>
    split_ifs at h with h73 h73
    all_goals
      cases h
      obtain ⟨h7, h3⟩ := h73
      exact ⟨_, by simp [registerFunctions, h7, h3], rfl⟩

/-- inst[31:25] is a function code in the three shifts only. -/
theorem recordOf_of_decodeAluImm {w : Word} {i : Instr} (h : decodeAluImm w = .ok i) :
    ∃ f7 op imm, (f7, fieldFunct3 w, op) ∈ immediateFunctions ∧
      (fieldFunct3 w = 0b001#3 ∨ fieldFunct3 w = 0b101#3 → f7 = fieldFunct7 w) ∧
      recordOf i = recordAluImmediate op (fieldRd w) (fieldRs1 w) imm := by
  unfold decodeAluImm at h
  split at h
  case h_7 h3 | h_8 h3 =>
    split_ifs at h
    all_goals
      next h7 =>
        cases h
        exact ⟨fieldFunct7 w, _, _, by simp [immediateFunctions, h7, h3], fun _ => rfl, rfl⟩
  all_goals
    next h3 =>
      cases h
      exact ⟨0b0000000#7, _, _, by simp [immediateFunctions, h3], by simp [h3], rfl⟩

theorem recordOf_of_decodeBranch {w : Word} {i : Instr} (h : decodeBranch w = .ok i) :
    ∃ op, (fieldFunct3 w, op) ∈ branchFunctions ∧
      recordOf i = recordBranch op (fieldRs1 w) (fieldRs2 w) (fieldImmB w) := by
  unfold decodeBranch at h
  split at h
  case h_7 => cases h
  all_goals
    next h3 =>
      cases h
      exact ⟨_, by simp [branchFunctions, h3], rfl⟩

theorem eq_of_decodeLoad {w : Word} {i : Instr} (h : decodeLoad w = .ok i) :
    i = .lw (fieldRd w) (fieldRs1 w) (fieldImmI w) := by
  unfold decodeLoad at h
  split_ifs at h
  exact (Except.ok.inj h).symm

theorem eq_of_decodeStore {w : Word} {i : Instr} (h : decodeStore w = .ok i) :
    i = .sw (fieldRs1 w) (fieldRs2 w) (fieldImmS w) := by
  unfold decodeStore at h
  split_ifs at h
  exact (Except.ok.inj h).symm

theorem eq_of_decodeJalr {w : Word} {i : Instr} (h : decodeJalr w = .ok i) :
    i = .jalr (fieldRd w) (fieldRs1 w) (fieldImmI w) := by
  unfold decodeJalr at h
  split_ifs at h
  exact (Except.ok.inj h).symm

theorem eq_of_decodeSystem {w : Word} {i : Instr} (h : decodeSystem w = .ok i) :
    (fieldFunct3 w = 0b010#3 ∧ i = .csrr (fieldRd w) (fieldCsr w)) ∨
      (fieldFunct3 w = 0b001#3 ∧ i = .csrw (fieldCsr w) (fieldRs1 w)) := by
  unfold decodeSystem at h
  split_ifs at h with hread hwrite
  · exact .inl ⟨hread.1, (Except.ok.inj h).symm⟩
  · exact .inr ⟨hwrite.1, (Except.ok.inj h).symm⟩

/-- Settles O7: the decoder of each major opcode, read as a row of R94. -/
theorem decodedRecordsFollowTheTable : Obligations.DecodedRecordsFollowTheTable := by
  intro w r hr
  obtain ⟨i, hd, rfl⟩ := decode_of_decodeRecord hr
  refine ⟨?register, ?immediate, ?lui, ?auipc, ?load, ?store, ?branch, ?jal, ?jalr, ?system⟩
  case register =>
    intro hop
    obtain ⟨op, hmem, hrecord⟩ := recordOf_of_decodeAluReg (decode_aluReg hop ▸ hd)
    exact ⟨_, hmem, rfl, rfl, hrecord⟩
  case immediate =>
    intro hop
    obtain ⟨f7, op, imm, hmem, h7, hrecord⟩ := recordOf_of_decodeAluImm (decode_aluImm hop ▸ hd)
    rw [hrecord]
    exact ⟨nofun, _, hmem, rfl, h7, rfl⟩
  case lui =>
    intro hop
    cases (decode_lui hop).symm.trans hd
    exact ⟨nofun, rfl⟩
  case auipc =>
    intro hop
    cases (decode_auipc hop).symm.trans hd
    exact ⟨nofun, rfl⟩
  case load =>
    intro hop
    obtain rfl := eq_of_decodeLoad (decode_load hop ▸ hd)
    exact ⟨nofun, rfl⟩
  case store =>
    intro hop
    obtain rfl := eq_of_decodeStore (decode_store hop ▸ hd)
    exact ⟨nofun, rfl⟩
  case branch =>
    intro hop
    obtain ⟨op, hmem, hrecord⟩ := recordOf_of_decodeBranch (decode_branch hop ▸ hd)
    rw [hrecord]
    exact ⟨nofun, _, hmem, rfl, rfl⟩
  case jal =>
    intro hop
    cases (decode_jal hop).symm.trans hd
    exact ⟨nofun, rfl⟩
  case jalr =>
    intro hop
    obtain rfl := eq_of_decodeJalr (decode_jalr hop ▸ hd)
    exact ⟨nofun, rfl⟩
  case system =>
    intro hop
    obtain ⟨h3, rfl⟩ | ⟨h3, rfl⟩ := eq_of_decodeSystem (decode_system hop ▸ hd)
    · exact .inl ⟨h3, rfl⟩
    · exact .inr ⟨h3, rfl⟩

/-! ### The execute stage, by the kind of the record (R96 to R101) -/

theorem execute_alu {r : InstructionRecord} {op : AluOp} {a b : Word} (hk : r.kind = .alu) (hop : r.aluOp = some op)
    (ha : r.src1Value = some a) (hb : r.immediate.or r.src2Value = some b) (pc : Word) :
    execute r pc = { r with data := some (alu op a b), nextProgramCounter := some (pc + 4#32) } := by
  simp [execute, aluBlock, specialDataBlock, controlFlowBlock, hk, hop, ha, hb]

theorem execute_load {r : InstructionRecord} {a b : Word} (hk : r.kind = .load) (hop : r.aluOp = some .add)
    (ha : r.src1Value = some a) (hb : r.immediate = some b) (pc : Word) :
    execute r pc = { r with address := some (a + b), nextProgramCounter := some (pc + 4#32) } := by
  simp [execute, aluBlock, specialDataBlock, controlFlowBlock, hk, hop, ha, hb, alu]

theorem execute_store {r : InstructionRecord} {a b : Word} (hk : r.kind = .store) (hop : r.aluOp = some .add)
    (ha : r.src1Value = some a) (hb : r.immediate = some b) (pc : Word) :
    execute r pc =
      { r with address := some (a + b), data := r.src2Value, nextProgramCounter := some (pc + 4#32) } := by
  simp [execute, aluBlock, specialDataBlock, controlFlowBlock, hk, hop, ha, hb, alu]

/-- A predicate with both operands read (43_control_transfer.md R173). -/
theorem controlTaken_eq_pred {r : InstructionRecord} {op : BranchOp} {a b : Word} (hop : r.branchOp = some op)
    (ha : r.src1Value = some a) (hb : r.src2Value = some b) : controlTaken r = some (pred op a b) := by
  cases op <;> simp [controlTaken, hop, ha, hb] <;> rfl

theorem execute_branch {r : InstructionRecord} {op : BranchOp} {a b d : Word} (hk : r.kind = .branch)
    (halu : r.aluOp = none) (hop : r.branchOp = some op) (ha : r.src1Value = some a) (hb : r.src2Value = some b)
    (himm : r.immediate = some d) (pc : Word) :
    execute r pc = { r with nextProgramCounter := some (if pred op a b then pc + d else pc + 4#32) } := by
  have htaken := controlTaken_eq_pred hop ha hb
  simp only [execute, aluBlock, specialDataBlock, controlFlowBlock, hk, halu, htaken, controlTarget, himm]
  cases pred op a b <;> rfl

theorem execute_jump {r : InstructionRecord} {d : Word} (hk : r.kind = .jump) (halu : r.aluOp = none)
    (hop : r.branchOp = some .alwaysTaken) (himm : r.immediate = some d) (pc : Word) :
    execute r pc = { r with data := some (pc + 4#32), nextProgramCounter := some (pc + d) } := by
  simp [execute, aluBlock, specialDataBlock, controlFlowBlock, hk, halu, controlTaken, hop, controlTarget, himm]

theorem execute_jumpRegister {r : InstructionRecord} {a d : Word} (hk : r.kind = .jumpRegister) (halu : r.aluOp = none)
    (hop : r.branchOp = some .alwaysTaken) (ha : r.src1Value = some a) (himm : r.immediate = some d) (pc : Word) :
    execute r pc = { r with data := some (pc + 4#32), nextProgramCounter := some (a + d) } := by
  simp [execute, aluBlock, specialDataBlock, controlFlowBlock, hk, halu, controlTaken, hop, controlTarget, ha, himm]

theorem execute_addUpperImmToPC {r : InstructionRecord} {d : Word} (hk : r.kind = .addUpperImmToPC)
    (halu : r.aluOp = none) (himm : r.immediate = some d) (pc : Word) :
    execute r pc = { r with data := some (pc + d), nextProgramCounter := some (pc + 4#32) } := by
  simp [execute, aluBlock, specialDataBlock, controlFlowBlock, hk, halu, himm]

theorem execute_csrRead {r : InstructionRecord} (hk : r.kind = .csrRead) (halu : r.aluOp = none) (pc : Word) :
    execute r pc = { r with data := r.csrValue, nextProgramCounter := some (pc + 4#32) } := by
  simp [execute, aluBlock, specialDataBlock, controlFlowBlock, hk, halu]

theorem execute_csrWrite {r : InstructionRecord} (hk : r.kind = .csrWrite) (halu : r.aluOp = none) (pc : Word) :
    execute r pc = { r with data := r.src1Value, nextProgramCounter := some (pc + 4#32) } := by
  simp [execute, aluBlock, specialDataBlock, controlFlowBlock, hk, halu]

/-! ### The stages are the per-instruction rules -/

theorem orFault_map (e : Except Fault α) (f : α → β) (k : β → Result) :
    orFault (e.map f) k = orFault e fun a => k (f a) := by
  cases e <;> rfl

theorem map_eq_ok {e : Except Fault α} {f : α → β} {b : β} (h : e.map f = .ok b) :
    ∃ a, e = .ok a ∧ f a = b := by
  cases e with
  | ok a => exact ⟨a, rfl, Except.ok.inj h⟩
  | error _ => cases h

/-- Both end at the target or at the fall-through, by the predicate on the two operands (R182). -/
theorem runRecord_branch (op : BranchOp) (rs1 rs2 : RegIdx) (offset : BitVec 13) (s : State) :
    runRecord (recordBranch op rs1 rs2 offset) s = branch op rs1 rs2 offset s := by
  have hrun : runRecord (recordBranch op rs1 rs2 offset) s =
      finishRecord (execute (readOperands (recordBranch op rs1 rs2 offset) s) s.pc) s := rfl
  rw [hrun, execute_branch rfl rfl rfl rfl rfl rfl]
  rfl

/-- S3 to S8 over an instruction's record are the instruction's own rule. -/
theorem runRecord_recordOf (i : Instr) (s : State) : runRecord (recordOf i) s = exec i s := by
  cases i with
  | add | sub | sll | slt | sltu | xor | srl | sra | or | and => rfl
  | addi | slti | sltiu | xori | ori | andi | slli | srli | srai | lui => rfl
  | auipc | jal | jalr => rfl
  | lw rd rs1 imm => exact orFault_map (s.memRead (s.effectiveAddress rs1 imm)) _ _
  | sw rs1 rs2 imm => exact orFault_map (s.memWrite (s.effectiveAddress rs1 imm) (s.readReg rs2)) _ _
  | beq | bne | blt | bge | bltu | bgeu => exact runRecord_branch ..
  | csrr rd csr => exact orFault_map (s.readCsr csr) _ _
  | csrw csr rs1 => exact orFault_map (s.readCsr csr) _ _

/-- Settles O49: the two steps differ in S3 to S8 alone. -/
theorem recordStepEqualsStep : Obligations.RecordStepEqualsStep := by
  intro s
  cases hr : s.runState with
  | inReset => simp only [stepByRecord, step, hr]
  | running =>
    simp only [stepByRecord, step, hr]
    refine congrArg (orFault s.fetch) (funext fun w => ?_)
    cases hd : decode w with
    | ok i =>
      simp only [decodeRecord_of_decode hd]
      exact runRecord_recordOf i s
    | error c => simp only [decodeRecord_of_illegal hd]

/-! ### The ALU's result as the table has it (41_alu.md R120) -/

theorem shiftAmount_eq (b : Word) : shiftAmount b = b.toNat % 32 := by
  simp [shiftAmount]

theorem toNat_flagWord (c : Bool) : (flagWord c).toNat = if c then 1 else 0 := by
  cases c <;> rfl

theorem toNat_eq_toInt_emod (r : Word) : (r.toNat : Int) = r.toInt % 2 ^ 32 := by
  have hlt := r.isLt
  rw [BitVec.toInt_eq_toNat_cond]
  split <;> omega

theorem aluTable_alu (op : AluOp) (a b : Word) : AluTable op a b (alu op a b) := by
  cases op with
  | add => exact BitVec.toNat_add a b
  | sub =>
    show ((a - b).toNat : Int) = _
    rw [BitVec.toNat_sub]
    omega
  | and => exact fun i => BitVec.getLsbD_and
  | or => exact fun i => BitVec.getLsbD_or
  | xor => exact fun i => BitVec.getLsbD_xor
  | shiftLeftLogical =>
    show (a <<< shiftAmount b).toNat = _
    rw [BitVec.toNat_shiftLeft, Nat.shiftLeft_eq, shiftAmount_eq]
  | shiftRightLogical =>
    show (a >>> shiftAmount b).toNat = _
    rw [BitVec.toNat_ushiftRight, Nat.shiftRight_eq_div_pow, shiftAmount_eq]
  | shiftRightArithmetic =>
    show ((a.sshiftRight (shiftAmount b)).toNat : Int) = _
    rw [toNat_eq_toInt_emod, BitVec.toInt_sshiftRight, Int.shiftRight_eq_div_pow, shiftAmount_eq]
    norm_cast
  | setLessThanSigned =>
    exact (toNat_flagWord _).trans (if_congr BitVec.slt_iff_toInt_lt rfl rfl)
  | setLessThanUnsigned =>
    exact (toNat_flagWord _).trans (if_congr BitVec.ult_iff_toNat_lt rfl rfl)

/-! ### The result fields after the execute stage (R101) -/

/-- The CSR read of a record that has an index (R95). -/
theorem readCsrStage_ok {r r' : InstructionRecord} {c : CsrIdx} {s : State} (hc : r.csrIndex = some c)
    (h : readCsrStage r s = .ok r') : ∃ v, s.readCsr c = .ok v ∧ r' = { r with csrValue := some v } := by
  unfold readCsrStage at h
  split at h
  next hnone => cases hc.symm.trans hnone
  next _ hsome =>
    cases hc.symm.trans hsome
    obtain ⟨v, hv, hr⟩ := map_eq_ok h
    exact ⟨v, hv, hr.symm⟩

/-- Settles O48: by the kind of the instruction's record, whose execute stage is one equation. -/
theorem executedRecordFields : Obligations.ExecutedRecordFields := by
  intro i s r h
  dsimp only
  cases i with
  | add | sub | sll | slt | sltu | xor | srl | sra | or | and =>
    obtain rfl := Except.ok.inj h
    rw [execute_alu rfl rfl rfl rfl]
    simp [recordOf, recordAluRegister, readOperands, aluTable_alu]
  | addi | slti | sltiu | xori | ori | andi | slli | srli | srai | lui =>
    obtain rfl := Except.ok.inj h
    rw [execute_alu rfl rfl rfl rfl]
    simp [recordOf, recordAluImmediate, readOperands, aluTable_alu]
  | auipc =>
    obtain rfl := Except.ok.inj h
    rw [execute_addUpperImmToPC rfl rfl rfl]
    simp [recordOf, readOperands]
  | lw =>
    obtain rfl := Except.ok.inj h
    rw [execute_load rfl rfl rfl rfl]
    simp [recordOf, readOperands]
  | sw =>
    obtain rfl := Except.ok.inj h
    rw [execute_store rfl rfl rfl rfl]
    simp [recordOf, readOperands]
  | beq | bne | blt | bge | bltu | bgeu =>
    obtain rfl := Except.ok.inj h
    rw [execute_branch rfl rfl rfl rfl rfl rfl]
    generalize pred _ _ _ = taken
    cases taken <;> simp [recordOf, recordBranch, readOperands]
  | jal =>
    obtain rfl := Except.ok.inj h
    rw [execute_jump rfl rfl rfl rfl]
    simp [recordOf, readOperands]
  | jalr =>
    obtain rfl := Except.ok.inj h
    rw [execute_jumpRegister rfl rfl rfl rfl rfl]
    simp [recordOf, readOperands]
  | csrr =>
    obtain ⟨v, -, rfl⟩ := readCsrStage_ok rfl h
    rw [execute_csrRead rfl rfl]
    simp [recordOf, readOperands]
  | csrw =>
    obtain ⟨v, -, rfl⟩ := readCsrStage_ok rfl h
    rw [execute_csrWrite rfl rfl]
    simp [recordOf, readOperands]

end Sys2Proof.Machine
end

section
/-! PROOFS. The clock cycle of 40_step_and_decode.md R93: what the core drives and is answered in the cycle that steps a
decoded instruction, the cycles that make no access, and the agreement of the clock edge with the stages. -/

namespace Sys2Proof.Machine

/-! ### The executed record of an instruction -/

/-- The record after S3, its CSR value absent where the CSR file refuses the read (R95). -/
def InstructionRecord.withOperands (r : InstructionRecord) (s : State) : InstructionRecord :=
  { readOperands r s with csrValue := r.csrIndex.bind fun c => (s.readCsr c).toOption }

/-- An instruction's record after S4; `executed_of_readCsrStage` ties it to the stages. -/
def executed (i : Instr) (s : State) : InstructionRecord := execute ((recordOf i).withOperands s) s.pc

theorem withOperands_of_readCsrStage {r r' : InstructionRecord} {s : State} (hfresh : r.csrValue = none)
    (h : readCsrStage (readOperands r s) s = .ok r') : r' = r.withOperands s := by
  cases hc : r.csrIndex with
  | none =>
    unfold readCsrStage at h
    simp only [readOperands, hc] at h
    simp [InstructionRecord.withOperands, readOperands, hc, hfresh, ← Except.ok.inj h]
  | some c =>
    obtain ⟨v, hv, rfl⟩ := readCsrStage_ok (r := readOperands r s) hc h
    simp [InstructionRecord.withOperands, hc, hv, Except.toOption]

theorem csrValue_recordOf (i : Instr) : (recordOf i).csrValue = none := by
  cases i <;> rfl

theorem executed_of_readCsrStage {i : Instr} {s : State} {r : InstructionRecord}
    (h : readCsrStage (readOperands (recordOf i) s) s = .ok r) : execute r s.pc = executed i s := by
  rw [withOperands_of_readCsrStage (csrValue_recordOf i) h, executed]

theorem executed_nextProgramCounter (i : Instr) (s : State) :
    (executed i s).nextProgramCounter = some (successor s i) := by
  cases i with
  | beq | bne | blt | bge | bltu | bgeu =>
    rw [executed, execute_branch rfl rfl rfl rfl rfl rfl]
    rfl
  | _ => rfl

theorem withAccess_executed (p : Ports) (i : Instr) (s : State) :
    p.withAccess (executed i s) =
      { p with dmemReq := (dataAddress s i).or p.dmemReq, dmemWrite := (storedWord s i).or p.dmemWrite } := by
  cases i <;> rfl

theorem withWriteBack_executed (p : Ports) (i : Instr) (s : State) (ans : Answers) :
    p.withWriteBack ((executed i s).withLoad ans) =
      { p with
        rfWrite := (destination i).bind fun d => ((executed i s).withLoad ans).data.map fun v => (d, v)
        csrWrite := csrWritten s i } := by
  cases i <;> rfl

/-! ### Which accesses fail (60_exceptions.md R201) -/

/-- The memory refuses the instruction's data access; `answers_dmemFail` ties it to `dmem_fail`. -/
def dataFails (i : Instr) (s : State) : Bool := (dataAddress s i).any fun a => !s.accessible a

/-- The CSR file refuses the instruction's read or its write; `answers_csrFail` ties it to `csr_fail`. -/
def csrFails (i : Instr) (s : State) : Bool :=
  (recordOf i).csrIndex.any (fun c => failed (s.readCsr c)) ||
    (csrWritten s i).any fun w => failed (s.writeCsr w.1 w.2)

theorem failed_eq_true_iff (e : Except Fault α) : failed e = true ↔ ∃ f, e = .error f := by
  cases e <;> simp

theorem csrFails_iff (i : Instr) (s : State) :
    csrFails i s = true ↔ (∃ c f, (recordOf i).csrIndex = some c ∧ s.readCsr c = .error f) ∨
      ∃ c v f, csrWritten s i = some (c, v) ∧ s.writeCsr c v = .error f := by
  simp [csrFails, Option.any_eq_true, failed_eq_true_iff]

theorem csrFails_of_csrIndex {i : Instr} {s : State} (h : (recordOf i).csrIndex = none) : csrFails i s = false := by
  cases i with
  | csrr | csrw => cases h
  | _ => rfl

theorem csrFails_of_dataAddress {i : Instr} {s : State} {b : Word} (h : dataAddress s i = some b) :
    csrFails i s = false := by
  cases i with
  | lw | sw => rfl
  | _ => cases h

theorem dataFails_iff {i : Instr} {s : State} {b : Word} (h : dataAddress s i = some b) :
    dataFails i s = true ↔ ¬InMemory s b := by
  simp [dataFails, h, ← accessible_iff]

/-- Some access of the instruction fails; `exec_completes_iff` ties it to the instruction's meaning. -/
def stepFails (i : Instr) (s : State) : Bool := dataFails i s || csrFails i s

theorem stepFails_lw (rd rs1 : RegIdx) (imm : BitVec 12) (s : State) :
    stepFails (.lw rd rs1 imm) s = !s.accessible (s.effectiveAddress rs1 imm) := Bool.or_false _

theorem stepFails_sw (rs1 rs2 : RegIdx) (imm : BitVec 12) (s : State) :
    stepFails (.sw rs1 rs2 imm) s = !s.accessible (s.effectiveAddress rs1 imm) := Bool.or_false _

theorem stepFails_csrr (rd : RegIdx) (csr : CsrIdx) (s : State) :
    stepFails (.csrr rd csr) s = failed (s.readCsr csr) := Bool.or_false _

theorem stepFails_csrw (csr : CsrIdx) (rs1 : RegIdx) (s : State) :
    stepFails (.csrw csr rs1) s = (failed (s.readCsr csr) || failed (s.writeCsr csr (s.readReg rs1))) := rfl

/-- An instruction completes exactly where no access of it fails. -/
theorem exec_completes_iff (i : Instr) (s : State) : (∃ t, exec i s = .next t) ↔ stepFails i s = false := by
  cases i with
  | lw rd rs1 imm =>
    rw [exec, execLw_eq, stepFails_lw]
    cases s.accessible (s.effectiveAddress rs1 imm) <;> simp [finishWrite]
  | sw rs1 rs2 imm =>
    rw [exec, execSw_eq, stepFails_sw]
    cases s.accessible (s.effectiveAddress rs1 imm) <;> simp [finish]
  | csrr rd csr =>
    rw [exec, execCsrr, stepFails_csrr]
    cases s.readCsr csr <;> simp [finishWrite]
  | csrw csr rs1 =>
    rw [exec, execCsrw, stepFails_csrw]
    cases s.readCsr csr with
    | error f => simp
    | ok v => cases s.writeCsr csr (s.readReg rs1) <;> simp [finish]
  | _ => exact iff_of_true ⟨_, rfl⟩ rfl

theorem fails_of_exec_fault {i : Instr} {s : State} {f : Fault} (h : exec i s = .fault f) :
    stepFails i s = true := by
  by_contra hn
  obtain ⟨t, ht⟩ := (exec_completes_iff i s).2 (by simpa using hn)
  cases h.symm.trans ht

/-- A failure signal counts for the kinds that make its access; the other kinds have none to fail. -/
theorem accessFails_recordOf {i : Instr} {s : State} {ans : Answers} (hd : ans.dmemFail = dataFails i s)
    (hc : ans.csrFail = csrFails i s) : accessFails (recordOf i) ans = stepFails i s := by
  cases i with
  | lw | sw => exact hd.trans (Bool.or_false _).symm
  | csrr | csrw => exact hc
  | _ => rfl

/-! ### What the core drives for a decoded instruction -/

/-- The in-ports of the reads hold the values of the state `s` for the record `r`. -/
def ReadsAnswered (s : State) (r : InstructionRecord) (ans : Answers) : Prop :=
  ans.rfRdata1 = r.src1Index.map s.readReg ∧ ans.rfRdata2 = r.src2Index.map s.readReg ∧
    ans.csrRdata = r.csrIndex.bind fun c => (s.readCsr c).toOption

theorem withReads_of_readsAnswered {s : State} {r : InstructionRecord} {ans : Answers} (h : ReadsAnswered s r ans) :
    r.withReads ans = r.withOperands s := by
  obtain ⟨h1, h2, hc⟩ := h
  have h1' : (r.src1Index.bind fun _ => ans.rfRdata1) = r.src1Index.map s.readReg := by
    rw [h1]
    cases r.src1Index <;> rfl
  have h2' : (r.src2Index.bind fun _ => ans.rfRdata2) = r.src2Index.map s.readReg := by
    rw [h2]
    cases r.src2Index <;> rfl
  have hc' : (r.csrIndex.bind fun _ => ans.csrRdata) = r.csrIndex.bind fun c => (s.readCsr c).toOption := by
    rw [hc]
    cases r.csrIndex <;> rfl
  simp only [InstructionRecord.withReads, InstructionRecord.withOperands, readOperands, h1', h2', hc']

theorem execute_withReads {s : State} {i : Instr} {ans : Answers} (h : ReadsAnswered s (recordOf i) ans) :
    execute ((recordOf i).withReads ans) s.pc = executed i s := by
  rw [withReads_of_readsAnswered h, executed]

theorem readAnswers_readsAnswered (inp : CycleInputs) (s : State) (r : InstructionRecord) :
    ReadsAnswered s r (readAnswers inp s r) := ⟨rfl, rfl, rfl⟩

/-- The ports of a step of `i` that fails, but for `fault` itself: the requests without the writes. -/
def askedPorts (inp : CycleInputs) (s : State) (i : Instr) (ans : Answers) : Ports :=
  { idlePorts s.pc s.runState inp ans with
    rfRead1 := (recordOf i).src1Index
    rfRead2 := (recordOf i).src2Index
    csrRead := (recordOf i).csrIndex
    dmemReq := dataAddress s i }

/-- The ports of a step of `i` that completes. -/
def completedPorts (inp : CycleInputs) (s : State) (i : Instr) (ans : Answers) : Ports :=
  { askedPorts inp s i ans with
    rfWrite := (destination i).bind fun d => ((executed i s).withLoad ans).data.map fun v => (d, v)
    csrWrite := csrWritten s i
    csrRetire := true
    dmemWrite := storedWord s i }

theorem recordCycle_fails {inp : CycleInputs} {s : State} {i : Instr} {ans : Answers}
    (hr : ReadsAnswered s (recordOf i) ans) (hf : accessFails (recordOf i) ans = true) :
    recordCycle (idlePorts s.pc s.runState inp ans) (recordOf i) s.pc ans =
      { ports := { askedPorts inp s i ans with fault := true }, nextPc := s.pc, nextRunState := .running } := by
  simp only [recordCycle, execute_withReads hr, withAccess_executed, if_pos hf]
  simp [askedPorts, idlePorts]

theorem recordCycle_completes {inp : CycleInputs} {s : State} {i : Instr} {ans : Answers}
    (hr : ReadsAnswered s (recordOf i) ans) (hf : accessFails (recordOf i) ans = false) :
    recordCycle (idlePorts s.pc s.runState inp ans) (recordOf i) s.pc ans =
      { ports := completedPorts inp s i ans, nextPc := successor s i, nextRunState := .running } := by
  simp only [recordCycle, execute_withReads hr, withAccess_executed, withWriteBack_executed,
    executed_nextProgramCounter, hf]
  simp [completedPorts, askedPorts, idlePorts]

/-! ### What the collaborators answer it -/

/-- The data request does not wait for the failure signals (log entry 12). -/
theorem recordCycle_dmemReq_eq {inp : CycleInputs} {s : State} {i : Instr} {ans : Answers}
    (hr : ReadsAnswered s (recordOf i) ans) :
    (recordCycle (idlePorts s.pc s.runState inp ans) (recordOf i) s.pc ans).ports.dmemReq = dataAddress s i := by
  cases hf : accessFails (recordOf i) ans with
  | true => rw [recordCycle_fails hr hf, askedPorts]
  | false => rw [recordCycle_completes hr hf, completedPorts, askedPorts]

theorem recordCycle_dmemWrite_eq_none {inp : CycleInputs} {s : State} {i : Instr} {ans : Answers}
    (hr : ReadsAnswered s (recordOf i) ans) (hst : storedWord s i = none) :
    (recordCycle (idlePorts s.pc s.runState inp ans) (recordOf i) s.pc ans).ports.dmemWrite = none := by
  cases hf : accessFails (recordOf i) ans with
  | true => rw [recordCycle_fails hr hf, askedPorts, idlePorts]
  | false => rw [recordCycle_completes hr hf, completedPorts, hst]

theorem answerAccess_dmemFail (p : Ports) (s : State) (ans : Answers) :
    (answerAccess p s ans).dmemFail = p.dmemReq.any fun a => !s.accessible a := by
  unfold answerAccess
  cases p.dmemWrite <;> simp only [failed_memRead, failed_memWrite]

/-- Without a data failure, only a CSR failure is left. -/
theorem csrFail_of_accessFails {r : InstructionRecord} {ans : Answers} (hd : ans.dmemFail = false)
    (h : accessFails r ans = true) : ans.csrFail = true := by
  unfold accessFails at h
  split at h <;> simp_all

section
variable {inp : CycleInputs} {s : State} {w : Word} {i : Instr} (hs : inp.stepping s.runState = true)
  (hf : s.fetch = .ok w) (hd : decode w = .ok i)
include hs hf hd

theorem answers_readsAnswered : ReadsAnswered s (recordOf i) (answers inp s) := by
  rw [answers_step hs hf (decodeRecord_of_decode hd)]
  exact ⟨rfl, rfl, rfl⟩

theorem answers_dmemFail : (answers inp s).dmemFail = dataFails i s := by
  rw [answers_step hs hf (decodeRecord_of_decode hd), answerAccess_dmemFail,
    recordCycle_dmemReq_eq (readAnswers_readsAnswered inp s (recordOf i)), dataFails]

theorem answers_csrFail : (answers inp s).csrFail = csrFails i s := by
  have hread := readAnswers_readsAnswered inp s (recordOf i)
  rw [answers_step hs hf (decodeRecord_of_decode hd)]
  cases h : accessFails (recordOf i) (readAnswers inp s (recordOf i)) with
  | true =>
    have hcsr : (recordOf i).csrIndex.any (fun c => failed (s.readCsr c)) = true := csrFail_of_accessFails rfl h
    rw [recordCycle_fails hread h]
    simp only [answerAccess, readAnswers, csrFails, hcsr, Bool.true_or]
  | false =>
    rw [recordCycle_completes hread h]
    rfl

theorem answers_dmemRdata (hst : storedWord s i = none) :
    (answers inp s).dmemRdata = (dataAddress s i).bind fun a => (s.memRead a).toOption := by
  have hread := readAnswers_readsAnswered inp s (recordOf i)
  rw [answers_step hs hf (decodeRecord_of_decode hd)]
  simp only [answerAccess, recordCycle_dmemReq_eq hread, recordCycle_dmemWrite_eq_none hread hst]
  rfl

theorem accessFails_answers : accessFails (recordOf i) (answers inp s) = stepFails i s :=
  accessFails_recordOf (answers_dmemFail hs hf hd) (answers_csrFail hs hf hd)

end

/-! ### The `illegal` port, where no word is refused -/

theorem illegalPort_of_decode {s : State} {w : Word} {i : Instr} (inp : CycleInputs) (hf : s.fetch = .ok w)
    (hd : decode w = .ok i) : illegalPort s.runState (answers inp s) = false := by
  unfold illegalPort
  rw [answers_decoded inp hf, decodeRecord_of_decode hd]
  cases s.runState <;> rfl

theorem illegalPort_of_fetch_error {s : State} {f : Fault} (inp : CycleInputs) (hf : s.fetch = .error f) :
    illegalPort s.runState (answers inp s) = false := by
  obtain ⟨-, hfail, -⟩ := answers_imem inp s
  unfold illegalPort Answers.decoded
  rw [hfail, hf]
  cases s.runState <;> rfl

/-! ### The settled core of a cycle that steps a decoded instruction -/

theorem dataAddress_isSome_iff (i : Instr) (s : State) :
    (dataAddress s i).isSome = true ↔ (recordOf i).kind = .load ∨ (recordOf i).kind = .store := by
  cases i with
  | lw => exact iff_of_true rfl (.inl rfl)
  | sw => exact iff_of_true rfl (.inr rfl)
  | _ => exact iff_of_false nofun nofun

/-- The core of a cycle, on the settled in-ports. -/
def settledCore (inp : CycleInputs) (s : State) : CoreCycle := coreCycle s.pc s.runState inp (answers inp s)

section
variable {inp : CycleInputs} {s : State} {w : Word} {i : Instr} (hs : inp.stepping s.runState = true)
  (hf : s.fetch = .ok w) (hd : decode w = .ok i)
include hs hf hd

theorem settledCore_fails (hfails : stepFails i s = true) :
    settledCore inp s =
      { ports := { askedPorts inp s i (answers inp s) with fault := true }
        nextPc := s.pc
        nextRunState := .running } := by
  have hdecoded : (answers inp s).decoded = some (.ok (recordOf i)) := by
    rw [answers_decoded inp hf, decodeRecord_of_decode hd]
  rw [settledCore, coreCycle_record hs hdecoded]
  exact recordCycle_fails (answers_readsAnswered hs hf hd) ((accessFails_answers hs hf hd).trans hfails)

theorem settledCore_completes (hfails : stepFails i s = false) :
    settledCore inp s =
      { ports := completedPorts inp s i (answers inp s), nextPc := successor s i, nextRunState := .running } := by
  have hdecoded : (answers inp s).decoded = some (.ok (recordOf i)) := by
    rw [answers_decoded inp hf, decodeRecord_of_decode hd]
  rw [settledCore, coreCycle_record hs hdecoded]
  exact recordCycle_completes (answers_readsAnswered hs hf hd) ((accessFails_answers hs hf hd).trans hfails)

/-- The requests do not wait for the failure signals (log entry 12). -/
theorem settledCore_requests :
    (settledCore inp s).ports.rfRead1 = (recordOf i).src1Index ∧
      (settledCore inp s).ports.rfRead2 = (recordOf i).src2Index ∧
      (settledCore inp s).ports.csrRead = (recordOf i).csrIndex ∧
      (settledCore inp s).ports.dmemReq = dataAddress s i := by
  cases hfails : stepFails i s with
  | true =>
    rw [settledCore_fails hs hf hd hfails]
    exact ⟨rfl, rfl, rfl, rfl⟩
  | false =>
    rw [settledCore_completes hs hf hd hfails]
    exact ⟨rfl, rfl, rfl, rfl⟩

theorem settledCore_signals :
    (settledCore inp s).ports.fault = stepFails i s ∧
      (settledCore inp s).ports.csrRetire = (!stepFails i s) ∧ (settledCore inp s).ports.illegal = false := by
  cases hfails : stepFails i s with
  | true =>
    rw [settledCore_fails hs hf hd hfails]
    exact ⟨rfl, rfl, illegalPort_of_decode inp hf hd⟩
  | false =>
    rw [settledCore_completes hs hf hd hfails]
    exact ⟨rfl, rfl, illegalPort_of_decode inp hf hd⟩

theorem settledCore_asksAsDecoded : AsksAsDecoded s i (recordOf i) (settledCore inp s).ports (answers inp s) := by
  obtain ⟨h1, h2, hcsr, hreq⟩ := settledCore_requests hs hf hd
  refine ⟨h1, h2, hcsr, ?_, hreq, ?_⟩
  · rw [hreq, dataAddress_isSome_iff]
  · rw [answers_csrFail hs hf hd, csrFails_iff]

end

/-! ### The clock edge of a step -/

/-- The record update of the core's own two registers, where they hold already what is written. -/
theorem State.with_pc_runState_self {s : State} {run : RunState} (hr : s.runState = run) :
    { s with pc := s.pc, runState := run } = s := by
  subst hr
  rfl

@[simp] theorem State.runState_edgeMemory (s : State) (p : Ports) : (s.edgeMemory p).runState = s.runState := by
  unfold State.edgeMemory
  split <;> rfl
@[simp] theorem State.regs_edgeMemory (s : State) (p : Ports) : (s.edgeMemory p).regs = s.regs := by
  unfold State.edgeMemory
  split <;> rfl
@[simp] theorem State.hostQueue_edgeMemory (s : State) (p : Ports) : (s.edgeMemory p).hostQueue = s.hostQueue := by
  unfold State.edgeMemory
  split <;> rfl
@[simp] theorem State.runState_edgeRegisters (s : State) (p : Ports) : (s.edgeRegisters p).runState = s.runState := by
  unfold State.edgeRegisters
  split <;> rfl
@[simp] theorem State.mem_edgeRegisters (s : State) (p : Ports) : (s.edgeRegisters p).mem = s.mem := by
  unfold State.edgeRegisters
  split <;> rfl
@[simp] theorem State.hostQueue_edgeRegisters (s : State) (p : Ports) : (s.edgeRegisters p).hostQueue = s.hostQueue := by
  unfold State.edgeRegisters
  split <;> rfl

/-- A write that the CSR file takes, or none. -/
theorem State.edgeCsrWrite_cases (s : State) (p : Ports) :
    s.edgeCsrWrite p = s ∨ ∃ v, s.edgeCsrWrite p = s.pushHost v := by
  unfold State.edgeCsrWrite
  split
  next c v _ =>
    split
    next t h => exact .inr ⟨v, (State.writeCsr_ok h).2⟩
    next => exact .inl rfl
  next => exact .inl rfl

@[simp] theorem State.runState_edgeCsrWrite (s : State) (p : Ports) : (s.edgeCsrWrite p).runState = s.runState := by
  obtain h | ⟨v, h⟩ := s.edgeCsrWrite_cases p <;> simp [h]
@[simp] theorem State.regs_edgeCsrWrite (s : State) (p : Ports) : (s.edgeCsrWrite p).regs = s.regs := by
  obtain h | ⟨v, h⟩ := s.edgeCsrWrite_cases p <;> simp [h]
@[simp] theorem State.mem_edgeCsrWrite (s : State) (p : Ports) : (s.edgeCsrWrite p).mem = s.mem := by
  obtain h | ⟨v, h⟩ := s.edgeCsrWrite_cases p <;> simp [h]

/-- The collaborators' writes of a step, in the order of R235. -/
def State.edgeWrites (s : State) (p : Ports) : State := ((s.edgeMemory p).edgeRegisters p).edgeCsrWrite p

/-- The edge of a cycle that retires is those writes and S7 and S8. -/
theorem clockEdge_retires {c : CoreCycle} {inp : CycleInputs} {s : State} (hp : inp.hostPoll = false)
    (hretire : c.ports.csrRetire = true) (hreset : c.ports.csrReset = false) (hrun : c.nextRunState = s.runState) :
    clockEdge c inp s = (s.edgeWrites c.ports).complete c.nextPc := by
  have hsame : (s.edgeWrites c.ports).runState = s.runState := by simp [State.edgeWrites]
  simp only [clockEdge, hp, State.edgeCsrs, hretire, hreset, hrun, ← hsame]
  rfl

theorem State.edgeMemory_of_none {s : State} {p : Ports} (h : p.dmemWrite = none) : s.edgeMemory p = s := by
  simp [State.edgeMemory, h]

theorem State.edgeMemory_of_some {s : State} {p : Ports} {a v : Word} (hreq : p.dmemReq = some a)
    (hwrite : p.dmemWrite = some v) : s.edgeMemory p = s.storeWord a v := by
  simp [State.edgeMemory, hreq, hwrite]

theorem State.edgeRegisters_of_none {s : State} {p : Ports} (h : p.rfWrite = none) : s.edgeRegisters p = s := by
  simp [State.edgeRegisters, h]

theorem State.edgeRegisters_of_some {s : State} {p : Ports} {d : RegIdx} {v : Word} (h : p.rfWrite = some (d, v)) :
    s.edgeRegisters p = s.writeReg d v := by
  simp [State.edgeRegisters, h]

theorem State.readReg_edgeWrites (s : State) (p : Ports) (r : RegIdx) :
    (s.edgeWrites p).readReg r = (s.edgeRegisters p).readReg r := by
  refine State.readReg_congr ?_ r
  simp only [State.edgeWrites, State.regs_edgeCsrWrite]
  unfold State.edgeRegisters
  split
  · rw [State.regs_writeReg, State.regs_edgeMemory, State.regs_writeReg]
  · exact State.regs_edgeMemory s p

theorem State.mem_edgeWrites (s : State) (p : Ports) : (s.edgeWrites p).mem = (s.edgeMemory p).mem := by
  simp [State.edgeWrites]

theorem State.hostQueue_edgeWrites_of_none {s : State} {p : Ports} (h : p.csrWrite = none) :
    (s.edgeWrites p).hostQueue = s.hostQueue := by
  simp [State.edgeWrites, State.edgeCsrWrite, h]

theorem State.hostQueue_edgeWrites_of_tohost {s : State} {p : Ports} {v : Word}
    (h : p.csrWrite = some (Config.csrTohost, v)) : (s.edgeWrites p).hostQueue = s.hostQueue ++ [v] := by
  simp [State.edgeWrites, State.edgeCsrWrite, h, State.writeCsr]

/-! ### The cycle of a step -/

/-- Everything a completed run of the stages is. -/
theorem runRecord_next {r : InstructionRecord} {s t : State} (h : runRecord r s = .next t) :
    ∃ r' e u v next, readCsrStage (readOperands r s) s = .ok r' ∧ performAccess (execute r' s.pc) s = .ok (e, u) ∧
      writeCsrStage e (writeResult e u) = .ok v ∧ e.nextProgramCounter = some next ∧ t = v.complete next := by
  unfold runRecord at h
  split at h
  next =>
    obtain ⟨r', hread, h⟩ := orFault_next h
    obtain ⟨⟨e, u⟩, haccess, h⟩ := orFault_next h
    obtain ⟨v, hwrite, h⟩ := orFault_next h
    unfold finishRecord at h
    split at h
    next next hnext => exact ⟨r', e, u, v, next, hread, haccess, hwrite, hnext, by simpa using h.symm⟩
    next => cases h
  next => cases h

/-- S5 over an executed record is the answered load and the edge's store. -/
theorem performAccess_executed {i : Instr} {s u : State} {e : InstructionRecord} {ans : Answers} {p : Ports}
    (hload : storedWord s i = none → ans.dmemRdata = (dataAddress s i).bind fun a => (s.memRead a).toOption)
    (hreq : p.dmemReq = dataAddress s i) (hwrite : p.dmemWrite = storedWord s i)
    (h : performAccess (executed i s) s = .ok (e, u)) :
    e = (executed i s).withLoad ans ∧ u = s.edgeMemory p := by
  unfold State.edgeMemory
  rw [hreq, hwrite]
  cases i with
  | lw rd rs1 imm =>
    obtain ⟨v, hv, heu⟩ := map_eq_ok (e := s.memRead (s.effectiveAddress rs1 imm)) h
    have hdata : ans.dmemRdata = (s.memRead (s.effectiveAddress rs1 imm)).toOption := hload rfl
    rw [hv] at hdata
    cases heu
    exact ⟨by rw [InstructionRecord.withLoad, hdata]; rfl, rfl⟩
  | sw rs1 rs2 imm =>
    obtain ⟨t, ht, heu⟩ := map_eq_ok (e := s.memWrite (s.effectiveAddress rs1 imm) (s.readReg rs2)) h
    cases heu
    exact ⟨rfl, (State.memWrite_ok ht).2⟩
  | _ =>
    cases h
    exact ⟨rfl, rfl⟩

theorem writeResult_eq_edgeRegisters {e : InstructionRecord} {p : Ports} (u : State)
    (hp : p.rfWrite = e.destIndex.bind fun d => e.data.map fun v => (d, v)) : writeResult e u = u.edgeRegisters p := by
  unfold writeResult State.edgeRegisters
  rw [hp]
  cases e.destIndex <;> cases e.data <;> rfl

theorem edgeCsrWrite_of_writeCsrStage {i : Instr} {s u v : State} {ans : Answers} {p : Ports}
    (hp : p.csrWrite = csrWritten s i) (h : writeCsrStage ((executed i s).withLoad ans) u = .ok v) :
    v = u.edgeCsrWrite p := by
  unfold State.edgeCsrWrite
  rw [hp]
  cases i with
  | csrw csr rs1 =>
    have hv : u.writeCsr csr (s.readReg rs1) = .ok v := h
    simp only [csrWritten, hv]
  | _ =>
    cases h
    rfl

theorem destIndex_withLoad_executed (i : Instr) (s : State) (ans : Answers) :
    ((executed i s).withLoad ans).destIndex = destination i := by
  cases i <;> rfl

theorem nextProgramCounter_withLoad (r : InstructionRecord) (ans : Answers) :
    (r.withLoad ans).nextProgramCounter = r.nextProgramCounter := by
  unfold InstructionRecord.withLoad
  split <;> rfl

/-- A completed instruction is the writes of its ports, and its record is the one that the stages leave. -/
theorem exec_edgeWrites {i : Instr} {s t : State} {ans : Answers} {p : Ports}
    (hload : storedWord s i = none → ans.dmemRdata = (dataAddress s i).bind fun a => (s.memRead a).toOption)
    (hreq : p.dmemReq = dataAddress s i) (hstore : p.dmemWrite = storedWord s i)
    (hrf : p.rfWrite = (destination i).bind fun d => ((executed i s).withLoad ans).data.map fun v => (d, v))
    (hcsr : p.csrWrite = csrWritten s i) (h : exec i s = .next t) :
    t = (s.edgeWrites p).complete (successor s i) ∧
      ∃ r u, readCsrStage (readOperands (recordOf i) s) s = .ok r ∧
        performAccess (execute r s.pc) s = .ok ((executed i s).withLoad ans, u) := by
  rw [← runRecord_recordOf] at h
  obtain ⟨r, e, u, v, next, hread, haccess, hwrite, hnext, rfl⟩ := runRecord_next h
  obtain ⟨rfl, rfl⟩ := performAccess_executed hload hreq hstore (executed_of_readCsrStage hread ▸ haccess)
  rw [← destIndex_withLoad_executed i s ans] at hrf
  rw [writeResult_eq_edgeRegisters _ hrf] at hwrite
  obtain rfl := edgeCsrWrite_of_writeCsrStage hcsr hwrite
  rw [nextProgramCounter_withLoad, executed_nextProgramCounter] at hnext
  cases hnext
  exact ⟨rfl, r, _, hread, haccess⟩

section
variable {inp : CycleInputs} {s : State} {w : Word} {i : Instr} (hs : inp.stepping s.runState = true)
  (hf : s.fetch = .ok w) (hd : decode w = .ok i)
include hs hf hd

/-- The cycle of a step that an access fails. -/
theorem cycle_fails (hp : inp.hostPoll = false) (hfails : stepFails i s = true) :
    cycle inp s = .next (s, { askedPorts inp s i (answers inp s) with fault := true }) := by
  obtain ⟨-, hrun, hreset⟩ := (stepping_iff _ _).1 hs
  rw [cycle_of_noPoll hp, ← settledCore, settledCore_fails hs hf hd hfails,
    clockEdge_quiet hp rfl rfl rfl rfl hreset, State.with_pc_runState_self hrun]

/-- The cycle of a step that completes: its next state and its record are those of the stages. -/
theorem cycle_completes {t : State} (hp : inp.hostPoll = false) (h : exec i s = .next t) :
    cycle inp s = .next (t, completedPorts inp s i (answers inp s)) ∧
      t = (s.edgeWrites (completedPorts inp s i (answers inp s))).complete (successor s i) ∧
      ∃ r u, readCsrStage (readOperands (recordOf i) s) s = .ok r ∧
        performAccess (execute r s.pc) s = .ok ((executed i s).withLoad (answers inp s), u) := by
  obtain ⟨-, hrun, hreset⟩ := (stepping_iff _ _).1 hs
  have hfails := (exec_completes_iff i s).1 ⟨t, h⟩
  obtain ⟨rfl, hstages⟩ := exec_edgeWrites (answers_dmemRdata hs hf hd)
    (p := completedPorts inp s i (answers inp s)) rfl rfl rfl rfl h
  refine ⟨?_, rfl, hstages⟩
  rw [cycle_of_noPoll hp, ← settledCore, settledCore_completes hs hf hd hfails,
    clockEdge_retires hp rfl hreset hrun.symm]

end

/-! ### A step that does not complete -/

theorem orFault_refused {e : Except Fault α} {k : α → Result} {r : Refusal} (h : orFault e k = .refused r) :
    ∃ a, e = .ok a ∧ k a = .refused r := by
  cases e with
  | ok a => exact ⟨a, rfl, h⟩
  | error f => cases h

/-- The model refuses no instruction (60_exceptions.md R204). -/
theorem exec_ne_refused (i : Instr) (s : State) (r : Refusal) : exec i s ≠ .refused r := by
  intro h
  cases i with
  | lw | csrr | sw =>
    obtain ⟨_, -, h⟩ := orFault_refused h
    cases h
  | csrw =>
    obtain ⟨_, -, h⟩ := orFault_refused h
    obtain ⟨_, -, h⟩ := orFault_refused h
    cases h
  | _ => cases h

/-- Everything a faulting step can be: a failed fetch, or a decoded instruction with a failed access. -/
theorem step_fault {s : State} {f : Fault} (h : step s = .fault f) :
    s.runState = .running ∧
      (s.fetch = .error f ∨ ∃ w i, s.fetch = .ok w ∧ decode w = .ok i ∧ exec i s = .fault f) := by
  unfold step at h
  split at h
  next => cases h
  next hr =>
    refine ⟨hr, ?_⟩
    cases hf : s.fetch with
    | error g =>
      rw [hf] at h
      cases h
      exact .inl rfl
    | ok w =>
      rw [hf, orFault_ok] at h
      split at h
      next i hd => exact .inr ⟨w, i, rfl, hd, h⟩
      next => cases h

/-- Everything a step refused for its word can be (60_exceptions.md R202). -/
theorem step_illegal {s : State} {c : IllegalClass} {w : Word} (h : step s = .refused (.illegalWord c w)) :
    s.runState = .running ∧ s.fetch = .ok w ∧ decode w = .error c := by
  unfold step at h
  split at h
  next => cases h
  next hr =>
    obtain ⟨w', hf, h⟩ := orFault_refused h
    split at h
    next => exact absurd h (exec_ne_refused _ _ _)
    next hd =>
      cases h
      exact ⟨hr, hf, hd⟩

theorem cycle_fetchFails {inp : CycleInputs} {s : State} {f : Fault} (hp : inp.hostPoll = false)
    (hs : inp.stepping s.runState = true) (hf : s.fetch = .error f) :
    cycle inp s = .next (s, { idlePorts s.pc s.runState inp (answers inp s) with fault := true }) := by
  obtain ⟨-, -, hreset⟩ := (stepping_iff _ _).1 hs
  obtain ⟨-, hfail, -⟩ := answers_imem inp s
  rw [hf, failed_error] at hfail
  rw [cycle_of_noPoll hp, coreCycle_fetchFails hs hfail, clockEdge_quiet hp rfl rfl rfl rfl hreset]

theorem cycle_hold {inp : CycleInputs} {s : State} (hp : inp.hostPoll = false) (hreset : inp.resetReq = false)
    (hs : inp.stepping s.runState = false) :
    cycle inp s = .next (s, idlePorts s.pc s.runState inp (answers inp s)) := by
  rw [cycle_of_noPoll hp, coreCycle_hold hreset hs, clockEdge_quiet hp rfl rfl rfl rfl hreset]

/-- Settles O55: a fault is a failed fetch or a failed access, and each of these cycles holds the state. -/
theorem failedCycleChangesNothing : Obligations.FailedCycleChangesNothing := by
  intro a s
  dsimp only
  have hstepping (hr : s.runState = .running) : CycleInputs.stepping ⟨false, a, true, false⟩ s.runState = true :=
    (stepping_iff _ _).2 ⟨rfl, hr, rfl⟩
  refine ⟨fun f h => ?_, fun c w h => ?_, fun hr => ?_⟩
  · obtain ⟨hr, hf | ⟨w, i, hf, hd, hexec⟩⟩ := step_fault h
    · exact ⟨_, cycle_fetchFails rfl (hstepping hr) hf, ⟨rfl, rfl, rfl, rfl, rfl, rfl, rfl⟩, rfl,
        illegalPort_of_fetch_error _ hf⟩
    · exact ⟨_, cycle_fails (hstepping hr) hf hd rfl (fails_of_exec_fault hexec), ⟨rfl, rfl, rfl, rfl, rfl, rfl, rfl⟩,
        rfl, illegalPort_of_decode _ hf hd⟩
  · obtain ⟨hr, hf, hd⟩ := step_illegal h
    exact ⟨_, cycle_illegal rfl (hstepping hr) hf hd, ⟨rfl, rfl, rfl, rfl, rfl, rfl, rfl⟩, rfl,
      illegalPort_of_illegal _ hr hf hd⟩
  · refine ⟨_, cycle_hold rfl rfl ?_, ⟨rfl, rfl, rfl, rfl, rfl, rfl, rfl⟩, rfl, ?_⟩
    · rw [hr]
      rfl
    · show illegalPort s.runState _ = false
      rw [hr]
      rfl

/-! ### The ports of a step that completes -/

/-- Only SW stores, and it asks for its address. -/
theorem dataAddress_of_storedWord {i : Instr} {s : State} {v : Word} (h : storedWord s i = some v) :
    ∃ b, dataAddress s i = some b := by
  cases i with
  | sw => exact ⟨_, rfl⟩
  | _ => cases h

/-- A completed instruction with a destination has a result to write there. -/
theorem data_of_destination {i : Instr} {s : State} {ans : Answers} {d : RegIdx}
    (hload : storedWord s i = none → ans.dmemRdata = (dataAddress s i).bind fun a => (s.memRead a).toOption)
    (hfails : stepFails i s = false) (hdest : destination i = some d) :
    ∃ v, ((executed i s).withLoad ans).data = some v := by
  cases i with
  | lw rd rs1 imm =>
    have ha : s.accessible (s.effectiveAddress rs1 imm) = true := by simpa [stepFails_lw] using hfails
    refine ⟨s.mem.getWord (s.effectiveAddress rs1 imm), (hload rfl).trans ?_⟩
    simp [dataAddress, State.memRead, ha, Except.toOption]
  | csrr rd csr =>
    cases hv : s.readCsr csr with
    | ok v => exact ⟨v, congrArg Except.toOption hv⟩
    | error f => simp [stepFails_csrr, hv] at hfails
  | sw | beq | bne | blt | bge | bltu | bgeu | csrw => cases hdest
  | _ => exact ⟨_, rfl⟩

/-- Only `tohost` takes a write (10_state.md R21 to R24). -/
theorem csrWritten_of_completes {i : Instr} {s : State} {c : CsrIdx} {v : Word}
    (hfails : stepFails i s = false) (h : csrWritten s i = some (c, v)) : c = Config.csrTohost := by
  cases hw : s.writeCsr c v with
  | ok t => exact (State.writeCsr_ok hw).1
  | error f => simp [stepFails, csrFails, h, hw] at hfails

/-- Settles O56: the next state is the ports' writes, completed at the successor. -/
theorem completedCyclePorts : Obligations.CompletedCyclePorts := by
  intro a s t h
  obtain ⟨w, i, hr, hf, hd, hexec⟩ := step_next h
  have hs : CycleInputs.stepping ⟨false, a, true, false⟩ s.runState = true := (stepping_iff _ _).2 ⟨rfl, hr, rfl⟩
  have hfails := (exec_completes_iff i s).1 ⟨t, hexec⟩
  obtain ⟨hcycle, ht, r, u, hread, haccess⟩ := cycle_completes hs hf hd rfl hexec
  obtain ⟨-, rfl⟩ := State.fetch_ok hf
  refine ⟨i, r, _, u, _, hd, hread, haccess, hcycle, rfl, rfl, illegalPort_of_decode _ hf hd, rfl,
    by rw [destIndex_withLoad_executed]; rfl, ?dest, rfl, rfl, rfl, ?sameRegs, ?writesRegs, ?sameQueue, ?sends,
    ?sameMem, ?stores⟩
  case dest =>
    show Option.map Prod.fst ((destination i).bind _) = _
    cases hdest : destination i with
    | none => rfl
    | some d =>
      obtain ⟨v, hv⟩ := data_of_destination (answers_dmemRdata hs hf hd) hfails hdest
      simp [hv]
  case sameRegs =>
    intro hnone r
    rw [ht, State.readReg_complete, State.readReg_edgeWrites, State.edgeRegisters_of_none hnone]
  case writesRegs =>
    intro rd v hsome
    have hregs (r) : t.readReg r = (s.writeReg rd v).readReg r := by
      rw [ht, State.readReg_complete, State.readReg_edgeWrites, State.edgeRegisters_of_some hsome]
    exact ⟨(hregs rd).trans (s.readReg_writeReg_self rd v),
      fun r hne => (hregs r).trans (s.readReg_writeReg_of_ne v hne)⟩
  case sameQueue =>
    intro hnone
    rw [ht, State.hostQueue_complete, State.hostQueue_edgeWrites_of_none hnone]
  case sends =>
    intro c v hsome
    obtain rfl := csrWritten_of_completes hfails hsome
    exact ⟨rfl, by rw [ht, State.hostQueue_complete, State.hostQueue_edgeWrites_of_tohost hsome]⟩
  case sameMem =>
    intro hnone
    rw [ht, State.mem_complete, State.mem_edgeWrites, State.edgeMemory_of_none hnone]
  case stores =>
    intro v hsome
    obtain ⟨b, hb⟩ := dataAddress_of_storedWord hsome
    refine ⟨b, hb, ?_⟩
    rw [ht, State.mem_complete, State.mem_edgeWrites, State.edgeMemory_of_some hb hsome, State.mem_storeWord]

/-! ### The cycles that make no access but the fetch -/

/-- The cycle does not step, or its fetch or its word stops the step: no access but the fetch is made. -/
def NoAccess (inp : CycleInputs) (s : State) : Prop :=
  inp.stepping s.runState = false ∨ failed s.fetch = true ∨ ∃ w c, s.fetch = .ok w ∧ decode w = .error c

/-- The two kinds of cycle. -/
theorem steps_or_noAccess (inp : CycleInputs) (s : State) :
    (∃ w i, inp.stepping s.runState = true ∧ s.fetch = .ok w ∧ decode w = .ok i) ∨ NoAccess inp s := by
  cases hs : inp.stepping s.runState with
  | false => exact .inr (.inl hs)
  | true =>
    cases hf : s.fetch with
    | error f => exact .inr (.inr (.inl (by rw [hf]; rfl)))
    | ok w =>
      cases hd : decode w with
      | error c => exact .inr (.inr (.inr ⟨w, c, hf, hd⟩))
      | ok i => exact .inl ⟨w, i, rfl, rfl, hd⟩

/-- Whatever the other in-ports hold, such a cycle drives the idle ports, and `fault` for a failed fetch alone. -/
theorem coreCycle_noAccess {inp : CycleInputs} {s : State} {ans : Answers} (h : NoAccess inp s)
    (hdata : ans.imemRdata = s.fetch.toOption) (hfail : ans.imemFail = failed s.fetch) :
    (coreCycle s.pc s.runState inp ans).ports =
        { idlePorts s.pc s.runState inp ans with fault := inp.stepping s.runState && failed s.fetch } ∧
      (inp.resetReq = false → (coreCycle s.pc s.runState inp ans).nextPc = s.pc) := by
  cases hs : inp.stepping s.runState with
  | false =>
    cases hreset : inp.resetReq with
    | true =>
      rw [coreCycle_reset hreset]
      exact ⟨rfl, nofun⟩
    | false =>
      rw [coreCycle_hold hreset hs]
      exact ⟨rfl, fun _ => rfl⟩
  | true =>
    obtain h | h | ⟨w, c, hf, hd⟩ := h
    · cases hs.symm.trans h
    · rw [coreCycle_fetchFails hs (hfail.trans h), h]
      exact ⟨rfl, fun _ => rfl⟩
    · have hdecoded := decoded_of_fetch hf hdata hfail
      rw [decodeRecord_of_illegal hd] at hdecoded
      rw [coreCycle_illegal hs hdecoded, hf]
      exact ⟨rfl, fun _ => rfl⟩

theorem answers_noAccess {inp : CycleInputs} {s : State} (h : NoAccess inp s) : answers inp s = answerFetch inp s := by
  have hreads : answerReads (coreCycle s.pc s.runState inp (answerFetch inp s)).ports s (answerFetch inp s) =
      answerFetch inp s := by
    rw [(coreCycle_noAccess h rfl rfl).1]
    rfl
  rw [answers]
  simp only [hreads]
  rw [(coreCycle_noAccess h rfl rfl).1]
  rfl

theorem illegalPort_iff (inp : CycleInputs) (s : State) :
    illegalPort s.runState (answers inp s) = true ↔
      s.runState = .running ∧ ∃ w c, (answers inp s).imemRdata = some w ∧ decode w = .error c := by
  obtain ⟨hdata, -, -⟩ := answers_imem inp s
  cases hf : s.fetch with
  | error f => simp [illegalPort_of_fetch_error inp hf, hdata, hf, Except.toOption]
  | ok w =>
    cases hd : decode w with
    | ok i => simp [illegalPort_of_decode inp hf hd, hdata, hf, hd, Except.toOption]
    | error c =>
      cases hr : s.runState with
      | inReset => simp [illegalPort]
      | running => simp [← hr, illegalPort_of_illegal inp hr hf hd, hdata, hf, hd, Except.toOption]

section
variable {inp : CycleInputs} {s : State} (h : NoAccess inp s)
include h

theorem settledCore_noAccess :
    (settledCore inp s).ports =
        { idlePorts s.pc s.runState inp (answers inp s) with fault := inp.stepping s.runState && failed s.fetch } ∧
      (inp.resetReq = false → (settledCore inp s).nextPc = s.pc) :=
  coreCycle_noAccess h rfl rfl

theorem settledCore_asksForNothing : AsksForNothing (settledCore inp s).ports := by
  rw [(settledCore_noAccess h).1]
  exact ⟨rfl, rfl, rfl, rfl, rfl, rfl, rfl, rfl⟩

end

/-! ### The rows of the port list, in every cycle (R93) -/

theorem fetch_of_imemRdata {inp : CycleInputs} {s : State} {w : Word} (h : (answers inp s).imemRdata = some w) :
    s.fetch = .ok w := by
  obtain ⟨hdata, -, -⟩ := answers_imem inp s
  rw [hdata] at h
  cases hf : s.fetch with
  | ok v => simpa [hf, Except.toOption] using h
  | error f => simp [hf, Except.toOption] at h

/-- The memory's answer to `imem_addr`. -/
theorem answers_fetch (inp : CycleInputs) (s : State) :
    (InMemory s s.pc → (answers inp s).imemFail = false ∧ (answers inp s).imemRdata = some (s.mem.getWord s.pc)) ∧
      (¬InMemory s s.pc → (answers inp s).imemFail = true ∧ (answers inp s).imemRdata = none) := by
  obtain ⟨hdata, hfail, -⟩ := answers_imem inp s
  rw [hdata, hfail, ← accessible_iff]
  unfold State.fetch
  constructor
  · intro h
    rw [if_pos h]
    exact ⟨rfl, rfl⟩
  · intro h
    rw [if_neg h]
    exact ⟨rfl, rfl⟩

/-- The ports that every cycle drives alike. -/
theorem settledCore_always (inp : CycleInputs) (s : State) :
    (settledCore inp s).ports.imemAddr = s.pc ∧ (settledCore inp s).ports.csrReset = inp.resetReq ∧
      (settledCore inp s).ports.hostMessage = (answers inp s).hostMessage ∧
      (settledCore inp s).ports.illegal = illegalPort s.runState (answers inp s) := by
  obtain ⟨w, i, hs, hf, hd⟩ | hno := steps_or_noAccess inp s
  · cases hfails : stepFails i s with
    | true =>
      rw [settledCore_fails hs hf hd hfails]
      exact ⟨rfl, rfl, rfl, rfl⟩
    | false =>
      rw [settledCore_completes hs hf hd hfails]
      exact ⟨rfl, rfl, rfl, rfl⟩
  · rw [(settledCore_noAccess hno).1]
    exact ⟨rfl, rfl, rfl, rfl⟩

theorem settledCore_fault (inp : CycleInputs) (s : State) :
    (settledCore inp s).ports.fault = (inp.stepping s.runState &&
      ((answers inp s).imemFail || (answers inp s).csrFail || (answers inp s).dmemFail)) := by
  obtain ⟨w, i, hs, hf, hd⟩ | hno := steps_or_noAccess inp s
  · obtain ⟨hfault, -, -⟩ := settledCore_signals hs hf hd
    obtain ⟨-, hfetch, -⟩ := answers_imem inp s
    rw [hfault, hs, hfetch, hf, answers_csrFail hs hf hd, answers_dmemFail hs hf hd, stepFails, Bool.or_comm]
    simp
  · rw [(settledCore_noAccess hno).1, answers_noAccess hno]
    simp [answerFetch]

theorem settledCore_illegal_iff (inp : CycleInputs) (s : State) :
    (settledCore inp s).ports.illegal = true ↔
      s.runState = .running ∧ ∃ w c, (answers inp s).imemRdata = some w ∧ decode w = .error c := by
  obtain ⟨-, -, -, hillegal⟩ := settledCore_always inp s
  rw [hillegal, illegalPort_iff]

theorem settledCore_csrRetire_iff (inp : CycleInputs) (s : State) :
    (settledCore inp s).ports.csrRetire = true ↔ inp.stepping s.runState = true ∧
      (settledCore inp s).ports.illegal = false ∧ (settledCore inp s).ports.fault = false := by
  obtain ⟨w, i, hs, hf, hd⟩ | hno := steps_or_noAccess inp s
  · obtain ⟨hfault, hretire, hillegal⟩ := settledCore_signals hs hf hd
    simp [hfault, hretire, hillegal, hs]
  · obtain ⟨-, -, -, -, -, -, hretire, -⟩ := settledCore_asksForNothing hno
    rw [hretire]
    refine iff_of_false nofun fun ⟨hs, hlegal, hfault⟩ => ?_
    rw [(settledCore_noAccess hno).1] at hfault hlegal
    obtain hidle | hfetch | ⟨w, c, hf, hd⟩ := hno
    · cases hs.symm.trans hidle
    · simp [hs, hfetch] at hfault
    · obtain ⟨-, hrun, -⟩ := (stepping_iff _ _).1 hs
      cases hlegal.symm.trans (illegalPort_of_illegal inp hrun hf hd)

/-- With `illegal` or `fault` nothing is written. -/
theorem settledCore_suppressed {inp : CycleInputs} {s : State}
    (h : (settledCore inp s).ports.illegal = true ∨ (settledCore inp s).ports.fault = true) :
    (settledCore inp s).ports.rfWrite = none ∧ (settledCore inp s).ports.csrWrite = none ∧
      (settledCore inp s).ports.csrRetire = false ∧ (settledCore inp s).ports.dmemWrite = none ∧
      (inp.resetReq = false → (settledCore inp s).nextPc = s.pc) := by
  obtain ⟨w, i, hs, hf, hd⟩ | hno := steps_or_noAccess inp s
  · obtain ⟨hfault, -, hillegal⟩ := settledCore_signals hs hf hd
    have hfails : stepFails i s = true := by simpa [hillegal, hfault] using h
    rw [settledCore_fails hs hf hd hfails]
    exact ⟨rfl, rfl, rfl, rfl, fun _ => rfl⟩
  · obtain ⟨-, -, -, -, hrf, hcsr, hretire, hdmem⟩ := settledCore_asksForNothing hno
    exact ⟨hrf, hcsr, hretire, hdmem, (settledCore_noAccess hno).2⟩

theorem noAccess_of_idle {inp : CycleInputs} {s : State}
    (h : inp.stepping s.runState = false ∨ (settledCore inp s).ports.illegal = true ∨ (answers inp s).imemFail = true) :
    NoAccess inp s := by
  obtain ⟨w, i, hs, hf, hd⟩ | hno := steps_or_noAccess inp s
  · obtain ⟨-, -, hillegal⟩ := settledCore_signals hs hf hd
    obtain ⟨-, hfetch, -⟩ := answers_imem inp s
    simp [hs, hillegal, hfetch, hf] at h
  · exact hno

/-- The reads are answered from the values before the cycle's writes. -/
theorem answers_reads (inp : CycleInputs) (s : State) :
    (answers inp s).rfRdata1 = (settledCore inp s).ports.rfRead1.map s.readReg ∧
      (answers inp s).rfRdata2 = (settledCore inp s).ports.rfRead2.map s.readReg ∧
      (answers inp s).csrRdata = (settledCore inp s).ports.csrRead.bind (fun c => (s.readCsr c).toOption) ∧
      ((settledCore inp s).ports.csrRead = none → (answers inp s).csrFail = false) := by
  obtain ⟨w, i, hs, hf, hd⟩ | hno := steps_or_noAccess inp s
  · obtain ⟨h1, h2, hcsr, -⟩ := settledCore_requests hs hf hd
    obtain ⟨hr1, hr2, hrcsr⟩ := answers_readsAnswered hs hf hd
    rw [h1, h2, hcsr, answers_csrFail hs hf hd]
    exact ⟨hr1, hr2, hrcsr, csrFails_of_csrIndex⟩
  · obtain ⟨h1, h2, hcsr, -⟩ := settledCore_asksForNothing hno
    rw [h1, h2, hcsr, answers_noAccess hno]
    exact ⟨rfl, rfl, rfl, fun _ => rfl⟩

/-- The data memory's answer; a store that does not fail shows `dmem_we`. -/
theorem answers_dmem (inp : CycleInputs) (s : State) :
    (∀ b, (settledCore inp s).ports.dmemReq = some b → ((answers inp s).dmemFail = true ↔ ¬InMemory s b) ∧
      ((settledCore inp s).ports.dmemWrite = none → InMemory s b →
        (answers inp s).dmemRdata = some (s.mem.getWord b))) ∧
    ((settledCore inp s).ports.dmemReq = none → (answers inp s).dmemFail = false) := by
  obtain ⟨w, i, hs, hf, hd⟩ | hno := steps_or_noAccess inp s
  · obtain ⟨-, -, -, hreq⟩ := settledCore_requests hs hf hd
    rw [hreq, answers_dmemFail hs hf hd]
    refine ⟨fun b hb => ⟨dataFails_iff hb, fun hwrite hin => ?_⟩, fun hb => by simp [dataFails, hb]⟩
    have ha : s.accessible b = true := (accessible_iff s b).2 hin
    have hfails : stepFails i s = false := by
      simp [stepFails, dataFails, hb, ha, csrFails_of_dataAddress hb]
    rw [settledCore_completes hs hf hd hfails] at hwrite
    rw [answers_dmemRdata hs hf hd hwrite, hb]
    simp [State.memRead, ha, Except.toOption]
  · obtain ⟨-, -, -, hreq, -⟩ := settledCore_asksForNothing hno
    rw [hreq, answers_noAccess hno]
    exact ⟨nofun, fun _ => rfl⟩

/-- Everything an accepted cycle is; a poll has a cycle of its own (log entry 11). -/
theorem cycle_next {inp : CycleInputs} {s t : State} {p : Ports} (h : cycle inp s = .next (t, p)) :
    p = (coreCycle s.pc s.runState inp (answers inp s)).ports ∧
      t = clockEdge (coreCycle s.pc s.runState inp (answers inp s)) inp s ∧
      (inp.hostPoll = true → inp.resetReq = false ∧ inp.stepping s.runState = false) := by
  unfold cycle at h
  split_ifs at h with hbusy hreset
  cases h
  refine ⟨rfl, rfl, fun hp => ?_⟩
  simpa [hp] using hbusy

/-- Settles O60: row by row, over the cycles that step a decoded instruction and those that make no access. -/
theorem portsOfEveryCycle : Obligations.PortsOfEveryCycle := by
  intro inp s t p h
  obtain ⟨rfl, rfl, hpoll⟩ := cycle_next h
  obtain ⟨hin, hout⟩ := answers_fetch inp s
  obtain ⟨haddr, hreset, hmessage, -⟩ := settledCore_always inp s
  obtain ⟨hread1, hread2, hcsr, hcsrFail⟩ := answers_reads inp s
  obtain ⟨hdmem, hnodmem⟩ := answers_dmem inp s
  refine ⟨haddr, hreset, hmessage, hin, hout, settledCore_illegal_iff inp s, ?fault, settledCore_csrRetire_iff inp s,
    settledCore_suppressed, ?decoded, fun hidle => settledCore_asksForNothing (noAccess_of_idle hidle), hread1, hread2,
    hcsr, hcsrFail, hdmem, hnodmem, ?poll, ?hold⟩
  case fault => exact (Bool.eq_iff_iff.1 (settledCore_fault inp s)).trans Bool.and_eq_true_iff
  case decoded =>
    intro w i r hs hw hd hr
    have hf : s.fetch = .ok w := fetch_of_imemRdata hw
    cases (decodeRecord_of_decode hd).symm.trans hr
    exact settledCore_asksAsDecoded hs hf hd
  case poll =>
    intro hp
    obtain ⟨hreset, hs⟩ := hpoll hp
    exact clockEdge_poll hp hreset hs _
  case hold =>
    rintro ⟨hs, hreset, hp⟩
    rw [coreCycle_hold hreset hs]
    exact clockEdge_quiet hp rfl rfl rfl rfl hreset s

end Sys2Proof.Machine
end

section
/-! PROOFS. The family of 41_alu.md: the ALU's arithmetic, the results and frames of the ALU instructions, the words of
their rows, and the instructions that always complete. -/

namespace Sys2Proof.Machine

/-! ### The ALU (41_alu.md R120 to R127) -/

/-- Settles O9: `aluTable_alu` goes through the ten operations. -/
theorem aluMatchesTheTable : Obligations.AluMatchesTheTable := aluTable_alu

theorem alu_sub_eq_add_neg (a b : Word) : alu .sub a b = alu .add a (alu .add (~~~b) 1#32) :=
  calc a - b = a + -b := BitVec.sub_eq_add_neg a b
    _ = a + (~~~b + 1#32) := by rw [BitVec.neg_eq_not_add]

/-- Settles O10: the values modulo 2^32 are the table's rows; subtraction is addition of the two's complement. -/
theorem addAndSubWrap : Obligations.AddAndSubWrap :=
  ⟨fun a b => ⟨aluTable_alu .add a b, alu_sub_eq_add_neg a b, BitVec.sub_self a, aluTable_alu .sub a b⟩, by decide⟩

theorem getLsbD_alu_shiftLeftLogical (a b : Word) {i : Nat} (hi : i < 32) :
    (alu .shiftLeftLogical a b).getLsbD i = if b.toNat % 32 ≤ i then a.getLsbD (i - b.toNat % 32) else false := by
  show (a <<< shiftAmount b).getLsbD i = _
  rw [BitVec.getLsbD_shiftLeft, shiftAmount_eq]
  by_cases hn : b.toNat % 32 ≤ i
  · simp [hi, hn]
  · simp [hn, Nat.lt_of_not_le hn]

theorem getLsbD_alu_shiftRightLogical (a b : Word) (i : Nat) :
    (alu .shiftRightLogical a b).getLsbD i = if i + b.toNat % 32 ≤ 31 then a.getLsbD (i + b.toNat % 32) else false := by
  show (a >>> shiftAmount b).getLsbD i = _
  rw [BitVec.getLsbD_ushiftRight, shiftAmount_eq, Nat.add_comm]
  split
  · rfl
  · exact BitVec.getLsbD_of_ge _ _ (by omega)

theorem getLsbD_alu_shiftRightArithmetic (a b : Word) {i : Nat} (hi : i < 32) :
    (alu .shiftRightArithmetic a b).getLsbD i =
      if i + b.toNat % 32 ≤ 31 then a.getLsbD (i + b.toNat % 32) else a.getLsbD 31 := by
  show (a.sshiftRight (shiftAmount b)).getLsbD i = _
  rw [BitVec.getLsbD_sshiftRight, shiftAmount_eq, Nat.add_comm, decide_eq_false (Nat.not_le.2 hi), Bool.not_false,
    Bool.true_and]
  exact if_congr Nat.lt_succ_iff rfl (BitVec.msb_eq_getLsbD_last a)

theorem alu_shiftLeftLogical_of_amount_zero (a : Word) {b : Word} (h : shiftAmount b = 0) :
    alu .shiftLeftLogical a b = a := by
  show a <<< shiftAmount b = a
  rw [h, BitVec.shiftLeft_zero]

theorem alu_shiftRightLogical_of_amount_zero (a : Word) {b : Word} (h : shiftAmount b = 0) :
    alu .shiftRightLogical a b = a := by
  show a >>> shiftAmount b = a
  rw [h, BitVec.ushiftRight_zero]

/-- Settles O11: bit by bit, then the amounts that are 0 modulo 32, then the closed values. -/
theorem shiftsBitByBit : Obligations.ShiftsBitByBit :=
  ⟨fun a b i hi => ⟨getLsbD_alu_shiftLeftLogical a b hi, getLsbD_alu_shiftRightLogical a b i,
      getLsbD_alu_shiftRightArithmetic a b hi⟩,
    fun a => ⟨alu_shiftLeftLogical_of_amount_zero a rfl, alu_shiftLeftLogical_of_amount_zero a rfl,
      alu_shiftRightLogical_of_amount_zero a rfl⟩,
    by decide⟩

theorem alu_setLessThanSigned (a b : Word) :
    alu .setLessThanSigned a b = if a.toInt < b.toInt then 1#32 else 0#32 :=
  if_congr BitVec.slt_iff_toInt_lt rfl rfl

theorem alu_setLessThanUnsigned (a b : Word) :
    alu .setLessThanUnsigned a b = if a.toNat < b.toNat then 1#32 else 0#32 :=
  if_congr BitVec.ult_iff_toNat_lt rfl rfl

/-- Inverting the sign bit is adding 2^31: the carry out of bit 31 is dropped. -/
theorem xor_signBit_eq_add (a : Word) : a ^^^ 0x80000000#32 = a + 0x80000000#32 := by
  apply BitVec.eq_of_getLsbD_eq
  intro i hi
  have hsum : (a + 0x80000000#32).getLsbD i = (2 ^ 31 + a.toNat).testBit i := by
    rw [← BitVec.testBit_toNat, BitVec.toNat_add, Nat.testBit_mod_two_pow, decide_eq_true hi, Bool.true_and, Nat.add_comm]
    rfl
  have hbit : (0x80000000#32).getLsbD i = decide (31 = i) := by
    rw [← BitVec.testBit_toNat]
    exact Nat.testBit_two_pow (n := 31)
  rw [BitVec.getLsbD_xor, hsum, hbit]
  obtain rfl | hlt : i = 31 ∨ i < 31 := by omega
  · rw [Nat.testBit_two_pow_add_eq, BitVec.testBit_toNat]
    simp
  · rw [Nat.testBit_two_pow_add_gt hlt, BitVec.testBit_toNat]
    simp [hlt.ne']

/-- The value with the sign bit inverted is the signed value moved up by 2^31 (R126). -/
theorem toNat_xor_signBit (a : Word) : ((a ^^^ 0x80000000#32).toNat : Int) = a.toInt + 2 ^ 31 := by
  have hlt := a.isLt
  rw [xor_signBit_eq_add, BitVec.toNat_add, BitVec.toNat_ofNat, BitVec.toInt_eq_toNat_cond]
  split <;> omega

/-- Settles O12: the second form of the signed comparison is the first with 2^31 added on both sides. -/
theorem comparisonsAreFullWidth : Obligations.ComparisonsAreFullWidth := by
  refine ⟨fun a b => ⟨alu_setLessThanSigned a b, ?xor, alu_setLessThanUnsigned a b, ?self, ?zero⟩, by decide⟩
  case xor =>
    have ha := toNat_xor_signBit a
    have hb := toNat_xor_signBit b
    rw [alu_setLessThanSigned]
    exact if_congr (by omega) rfl rfl
  case self => rw [alu_setLessThanSigned, if_neg (lt_irrefl _)]
  case zero => exact (alu_setLessThanUnsigned a 0#32).trans (if_neg (Nat.not_lt_zero a.toNat))

/-! ### An instruction that ends in a register write completes with its ALU result (R129) -/

theorem registerStep_nextPc (s : State) (rd : RegIdx) (v : Word) :
    RegisterStep s ((s.writeReg rd v).complete s.nextPc) rd v (displaced s.pc 4) := by
  rw [← State.nextPc_eq_displaced]
  exact registerStep_complete s rd v s.nextPc

/-- Whatever ends in a write of its ALU result to `rd` yields the table's value there and nothing else. -/
theorem yields_of_exec {i : Instr} {s : State} {rd : RegIdx} {op : AluOp} {a b : Word}
    (h : exec i s = finishWrite s rd (alu op a b) s.nextPc) : Yields i s rd op a b :=
  ⟨_, alu op a b, h, aluTable_alu op a b, registerStep_nextPc s rd _⟩

/-! ### The words of a row, by its format (30_encoding.md R63)

A word of a row is its format's encoding of the row's fixed fields and its own operand fields, and the decoder inverts
the encoder: it is enough that the row's instruction encodes so. -/

theorem rowDecodes_formatR {fixed : Word} {f : Word → Instr}
    (h : ∀ w, StandsFor (f w)
      (encodeR (fieldFunct7 fixed) (fieldRs2 w) (fieldRs1 w) (fieldFunct3 fixed) (fieldRd w) (fieldOpcode fixed))) :
    RowDecodes fixed 0xFE00707F#32 f := by
  intro w hw
  obtain ⟨hop, h3, h7⟩ := fields_of_and_maskR hw
  have hstands := h w
  rw [← hop, ← h3, ← h7, encodeR_fields] at hstands
  exact decode_eq_ok_iff.2 hstands

theorem rowDecodes_formatI {fixed : Word} {f : Word → Instr}
    (h : ∀ w, StandsFor (f w)
      (encodeI (fieldImmI w) (fieldRs1 w) (fieldFunct3 fixed) (fieldRd w) (fieldOpcode fixed))) :
    RowDecodes fixed 0x0000707F#32 f := by
  intro w hw
  obtain ⟨hop, h3⟩ := fields_of_and_maskI hw
  have hstands := h w
  rw [← hop, ← h3, encodeI_fields] at hstands
  exact decode_eq_ok_iff.2 hstands

theorem rowDecodes_formatU {fixed : Word} {f : Word → Instr}
    (h : ∀ w, StandsFor (f w) (encodeU (fieldImmU w) (fieldRd w) (fieldOpcode fixed))) :
    RowDecodes fixed 0x0000007F#32 f := by
  intro w hw
  have hstands := h w
  rw [← fields_of_and_maskU hw, encodeU_fields] at hstands
  exact decode_eq_ok_iff.2 hstands

/-! ### The register-register instructions (R130 to R139) -/

/-- Settles O14: both are register writes of their ALU result, and both rows have format R. -/
theorem addSubComplete : Obligations.AddSubComplete :=
  ⟨fun _ _ _ _ => ⟨yields_of_exec rfl, yields_of_exec rfl⟩,
    rowDecodes_formatR fun _ => ⟨rfl, rfl⟩, rowDecodes_formatR fun _ => ⟨rfl, rfl⟩⟩

/-- Settles O15, as O14 for the bitwise operations. -/
theorem logicComplete : Obligations.LogicComplete :=
  ⟨fun _ _ _ _ => ⟨yields_of_exec rfl, yields_of_exec rfl, yields_of_exec rfl⟩,
    rowDecodes_formatR fun _ => ⟨rfl, rfl⟩, rowDecodes_formatR fun _ => ⟨rfl, rfl⟩, rowDecodes_formatR fun _ => ⟨rfl, rfl⟩⟩

/-- Settles O16, as O14 for the shifts; `aluTable_alu` takes the amount modulo 32. -/
theorem shiftsComplete : Obligations.ShiftsComplete :=
  ⟨fun _ _ _ _ => ⟨yields_of_exec rfl, yields_of_exec rfl, yields_of_exec rfl⟩,
    rowDecodes_formatR fun _ => ⟨rfl, rfl⟩, rowDecodes_formatR fun _ => ⟨rfl, rfl⟩, rowDecodes_formatR fun _ => ⟨rfl, rfl⟩⟩

/-- Settles O17, as O14 for the comparisons. -/
theorem compareComplete : Obligations.CompareComplete :=
  ⟨fun _ _ _ _ => ⟨yields_of_exec rfl, yields_of_exec rfl⟩,
    rowDecodes_formatR fun _ => ⟨rfl, rfl⟩, rowDecodes_formatR fun _ => ⟨rfl, rfl⟩⟩

/-! ### The register-immediate instructions (R140 to R148) -/

/-- Settles O18: the sign-extended field is the Word of its signed value. -/
theorem immediateArithmeticComplete : Obligations.ImmediateArithmeticComplete :=
  ⟨fun _ _ _ _ => ⟨yields_of_exec rfl, yields_of_exec rfl, yields_of_exec rfl, yields_of_exec rfl⟩,
    rowDecodes_formatI fun _ => ⟨rfl, rfl⟩, rowDecodes_formatI fun _ => ⟨rfl, rfl⟩,
    rowDecodes_formatI fun _ => ⟨rfl, rfl⟩, rowDecodes_formatI fun _ => ⟨rfl, rfl⟩⟩

/-- Settles O19: the sign-extended field is the Word of its signed value, for both comparisons. -/
theorem immediateCompareComplete : Obligations.ImmediateCompareComplete :=
  ⟨fun _ _ _ _ => ⟨yields_of_exec rfl, yields_of_exec rfl⟩,
    rowDecodes_formatI fun _ => ⟨rfl, rfl⟩, rowDecodes_formatI fun _ => ⟨rfl, rfl⟩⟩

theorem immShamt_eq_ofNat (shamt : BitVec 5) : immShamt shamt = BitVec.ofNat 32 shamt.toNat :=
  (BitVec.ofNat_toNat 32 shamt).symm

/-- Settles O20: the zero-extended amount is the Word of its value. -/
theorem immediateShiftsComplete : Obligations.ImmediateShiftsComplete := by
  refine ⟨fun rd rs1 shamt s => ?_, rowDecodes_formatR fun _ => ⟨rfl, rfl⟩, rowDecodes_formatR fun _ => ⟨rfl, rfl⟩,
    rowDecodes_formatR fun _ => ⟨rfl, rfl⟩⟩
  rw [← immShamt_eq_ofNat]
  exact ⟨yields_of_exec rfl, yields_of_exec rfl, yields_of_exec rfl⟩

/-! ### LUI and AUIPC (R150, 44_auipc_csr.md R190) -/

theorem toNat_immU (imm20 : BitVec 20) : (immU imm20).toNat = imm20.toNat * 2 ^ 12 := by
  rw [immU, BitVec.toNat_append, Nat.shiftLeft_eq]
  exact Nat.or_zero _

/-- Settles O21: LUI's addition is to x0, which reads 0. -/
theorem upperImmediatesComplete : Obligations.UpperImmediatesComplete := by
  refine ⟨fun rd imm20 s => ⟨?lui, ?auipc⟩, rowDecodes_formatU fun _ => ⟨rfl, rfl⟩,
    rowDecodes_formatU fun _ => ⟨rfl, rfl⟩⟩
  case lui =>
    refine ⟨_, s.readReg 0#5 + immU imm20, rfl, ?_, registerStep_nextPc s rd _⟩
    rw [State.readReg_zero, BitVec.zero_add, toNat_immU]
  case auipc =>
    refine ⟨_, s.pc + immU imm20, rfl, ?_, registerStep_nextPc s rd _⟩
    rw [BitVec.toNat_add, toNat_immU]

/-! ### The instructions that always complete -/

/-- Only LW, SW, CSRR and CSRW make an access that can fail (60_exceptions.md R201). -/
theorem stepFails_eq_false {i : Instr} (s : State) (hlw : ∀ rd rs1 imm, i ≠ .lw rd rs1 imm)
    (hsw : ∀ rs1 rs2 imm, i ≠ .sw rs1 rs2 imm) (hcsrr : ∀ rd csr, i ≠ .csrr rd csr)
    (hcsrw : ∀ csr rs1, i ≠ .csrw csr rs1) : stepFails i s = false := by
  cases i with
  | lw rd rs1 imm => exact absurd rfl (hlw rd rs1 imm)
  | sw rs1 rs2 imm => exact absurd rfl (hsw rs1 rs2 imm)
  | csrr rd csr => exact absurd rfl (hcsrr rd csr)
  | csrw csr rs1 => exact absurd rfl (hcsrw csr rs1)
  | _ => rfl

/-- Settles O41: the step is the decoded instruction, and no access of it fails. -/
theorem onlyMemoryAndCsrCanFault : Obligations.OnlyMemoryAndCsrCanFault := by
  intro s i hr hin hd hlw hsw hcsrr hcsrw
  have hf : s.fetch = .ok (s.mem.getWord s.pc) := State.fetch_of_accessible ((accessible_iff s s.pc).2 hin)
  obtain ⟨t, ht⟩ := (exec_completes_iff i s).2 (stepFails_eq_false s hlw hsw hcsrr hcsrw)
  exact ⟨t, (step_of_decode hr hf hd).trans ht⟩

end Sys2Proof.Machine
end

section
/-! PROOFS. The family of 42_load_store.md: the bytes of a word as numbers, the bytes of memory after a store, and what
LW and SW do at every address. -/

namespace Sys2Proof.Machine

/-! ### The bytes of a Word as numbers (20_memory.md R42) -/

theorem toNat_append_byte {n : Nat} (x : BitVec n) (b : Byte) : (x ++ b).toNat = b.toNat + 2 ^ 8 * x.toNat := by
  rw [BitVec.toNat_append, ← Nat.shiftLeft_add_eq_or_of_lt b.isLt, Nat.shiftLeft_eq, Nat.mul_comm, Nat.add_comm]

theorem toNat_wordOfBytes (b0 b1 b2 b3 : Byte) :
    (wordOfBytes b0 b1 b2 b3).toNat =
      b0.toNat + 2 ^ 8 * b1.toNat + 2 ^ 16 * b2.toNat + 2 ^ 24 * b3.toNat := by
  unfold wordOfBytes
  rw [toNat_append_byte, toNat_append_byte, toNat_append_byte]
  omega

theorem toNat_byteOfWord (v : Word) (k : Nat) : (byteOfWord v k).toNat = v.toNat / 2 ^ (8 * k) % 2 ^ 8 := by
  rw [byteOfWord, BitVec.extractLsb'_toNat, Nat.shiftRight_eq_div_pow]

/-! ### The bytes of memory around a store (20_memory.md R42) -/

/-- The stored bytes lie from the lowest address up, across the end of the address space too. -/
theorem State.readByte_storeWord_displaced {s : State} (hm : s.mem.wf) (a v : Word) {k : Nat} (hk : k < 4) :
    (s.storeWord a v).readByte (displaced a k) = byteOfWord v k := by
  rw [displaced_ofNat, State.readByte, State.mem_storeWord, Memory.get_setWord _ _ _ hm]
  match k, hk with
  | 0, _ | 1, _ | 2, _ | 3, _ => simp

/-- A byte at none of the four addresses of the store is as before. -/
theorem State.readByte_storeWord_of_ne {s : State} (hm : s.mem.wf) {a b : Word} (v : Word)
    (h : ∀ k : Nat, k < 4 → b ≠ displaced a k) : (s.storeWord a v).readByte b = s.readByte b := by
  simp only [displaced_ofNat] at h
  exact Memory.get_setWord_of_ne hm (by simpa using h 0 (by decide)) (h 1 (by decide)) (h 2 (by decide))
    (h 3 (by decide))

/-! ### LW and SW at every address (42_load_store.md R160 to R162) -/

theorem State.effectiveAddress_eq_displaced (s : State) (rs1 : RegIdx) (imm : BitVec 12) :
    s.effectiveAddress rs1 imm = displaced (s.readReg rs1) imm.toInt :=
  (displaced_toInt (by decide) (s.readReg rs1) imm).symm

theorem exec_lw_of_not_inMemory {rd rs1 : RegIdx} {imm : BitVec 12} {s : State}
    (h : ¬InMemory s (s.effectiveAddress rs1 imm)) : exec (.lw rd rs1 imm) s = .fault .loadFailure :=
  (execLw_eq rd rs1 imm s).trans (if_neg (mt (accessible_iff s _).1 h))

theorem exec_sw_of_not_inMemory {rs1 rs2 : RegIdx} {imm : BitVec 12} {s : State}
    (h : ¬InMemory s (s.effectiveAddress rs1 imm)) : exec (.sw rs1 rs2 imm) s = .fault .storeFailure :=
  (execSw_eq rs1 rs2 imm s).trans (if_neg (mt (accessible_iff s _).1 h))

/-- The words of a format S row (30_encoding.md R63), as `rowDecodes_formatI` for format I. -/
theorem rowDecodes_formatS {fixed : Word} {f : Word → Instr}
    (h : ∀ w, StandsFor (f w)
      (encodeS (fieldImmS w) (fieldRs2 w) (fieldRs1 w) (fieldFunct3 fixed) (fieldOpcode fixed))) :
    RowDecodes fixed 0x0000707F#32 f := by
  intro w hw
  obtain ⟨hop, h3⟩ := fields_of_and_maskI hw
  have hstands := h w
  rw [← hop, ← h3, encodeS_fields] at hstands
  exact decode_eq_ok_iff.2 hstands

/-- Settles O22: where the memory accepts the access, LW is a register write of the word there; the faults do not look
at `rd`. -/
theorem loadWordResult : Obligations.LoadWordResult := by
  refine ⟨fun rd rs1 imm s => ⟨s.effectiveAddress_eq_displaced rs1 imm, fun hin => ?_, exec_lw_of_not_inMemory⟩,
    rowDecodes_formatI fun _ => ⟨rfl, rfl⟩⟩
  refine ⟨_, _, exec_lw_of_accessible ((accessible_iff s _).2 hin), ?_, registerStep_nextPc s rd _⟩
  rw [getWord_eq_wordOfBytes, toNat_wordOfBytes]

/-- Settles O23: where the memory accepts the access, SW is the store of `x[rs2]`, whose bytes the laws of memory give. -/
theorem storeWordResult : Obligations.StoreWordResult := by
  refine ⟨fun rs1 rs2 imm s hm => ⟨s.effectiveAddress_eq_displaced rs1 imm, fun hin => ?_, exec_sw_of_not_inMemory⟩,
    rowDecodes_formatS fun _ => ⟨rfl, rfl⟩⟩
  refine ⟨_, exec_sw_of_accessible ((accessible_iff s _).2 hin), ⟨s.nextPc_eq_displaced, rfl, rfl, rfl, rfl⟩,
    fun _ => rfl, rfl, fun k hk => ?_, fun b hb => State.readByte_storeWord_of_ne hm _ hb⟩
  rw [← toNat_byteOfWord, ← State.readByte_storeWord_displaced hm _ _ hk]
  rfl

end Sys2Proof.Machine
end

section
/-! PROOFS. The family of 43_control_transfer.md: the predicates, the branches and jumps with their words, and the
misaligned targets. -/

namespace Sys2Proof.Machine

/-! ### The words of the branches and of JAL (30_encoding.md R63), as `rowDecodes_formatI` for format I -/

theorem rowDecodes_formatB {fixed : Word} {f : Word → Instr}
    (h : ∀ w, StandsFor (f w)
      (encodeB (fieldImmB w) (fieldRs2 w) (fieldRs1 w) (fieldFunct3 fixed) (fieldOpcode fixed))) :
    RowDecodes fixed 0x0000707F#32 f := by
  intro w hw
  obtain ⟨hop, h3⟩ := fields_of_and_maskI hw
  have hstands := h w
  rw [← hop, ← h3, encodeB_fields] at hstands
  exact decode_eq_ok_iff.2 hstands

theorem rowDecodes_formatJ {fixed : Word} {f : Word → Instr}
    (h : ∀ w, StandsFor (f w) (encodeJ (fieldImmJ w) (fieldRd w) (fieldOpcode fixed))) :
    RowDecodes fixed 0x0000007F#32 f := by
  intro w hw
  have hstands := h w
  rw [← fields_of_and_maskU hw, encodeJ_fields] at hstands
  exact decode_eq_ok_iff.2 hstands

/-! ### The branches (R173 to R179, R182) -/

theorem pred_greaterOrEqualSigned_iff_le (a b : Word) :
    pred .greaterOrEqualSigned a b = true ↔ b.toInt ≤ a.toInt :=
  (pred_greaterOrEqualSigned_iff a b).trans not_lt

theorem pred_greaterOrEqualUnsigned_iff_le (a b : Word) :
    pred .greaterOrEqualUnsigned a b = true ↔ b.toNat ≤ a.toNat :=
  (pred_greaterOrEqualUnsigned_iff a b).trans not_lt

/-- An instruction that only ends is a `TransferStep`, as `registerStep_complete` for one that writes a register. -/
theorem transferStep_complete (s : State) (next : Word) : TransferStep s (s.complete next) next :=
  ⟨⟨rfl, rfl, rfl, rfl, rfl⟩, fun _ => rfl, fun _ => rfl, rfl⟩

theorem branch_eq_finish (op : BranchOp) (rs1 rs2 : RegIdx) (offset : BitVec 13) (s : State) :
    branch op rs1 rs2 offset s = finish s (branchTarget op rs1 rs2 offset s) := rfl

/-- Whatever follows the template branches on the condition that its predicate stands for. -/
theorem branches_of_exec {i : Instr} {s : State} {op : BranchOp} {rs1 rs2 : RegIdx} {offset : BitVec 13} {P : Prop}
    (hexec : exec i s = branch op rs1 rs2 offset s) (hpred : pred op (s.readReg rs1) (s.readReg rs2) = true ↔ P) :
    Branches i s P offset := by
  classical
  rw [branch_eq_finish, branchTarget_of_iff hpred] at hexec
  refine ⟨_, hexec, ?_⟩
  by_cases hP : P
  · rw [if_pos hP]
    exact .inl ⟨hP, transferStep_complete s _⟩
  · rw [if_neg hP]
    exact .inr ⟨hP, transferStep_complete s _⟩

/-- Settles O28: each branch is the template with its predicate, and its words have format B with an even offset. -/
theorem branchesComplete : Obligations.BranchesComplete := by
  refine ⟨fun rs1 rs2 offset s => ⟨?beq, ?bne, ?blt, ?bge, ?bltu, ?bgeu⟩,
    rowDecodes_formatB fun w => ⟨evenOffset_fieldImmB w, rfl⟩, rowDecodes_formatB fun w => ⟨evenOffset_fieldImmB w, rfl⟩,
    rowDecodes_formatB fun w => ⟨evenOffset_fieldImmB w, rfl⟩, rowDecodes_formatB fun w => ⟨evenOffset_fieldImmB w, rfl⟩,
    rowDecodes_formatB fun w => ⟨evenOffset_fieldImmB w, rfl⟩, rowDecodes_formatB fun w => ⟨evenOffset_fieldImmB w, rfl⟩⟩
  case beq => exact branches_of_exec rfl (pred_equal_iff _ _)
  case bne => exact branches_of_exec rfl (pred_notEqual_iff _ _)
  case blt => exact branches_of_exec rfl (pred_lessSigned_iff _ _)
  case bge => exact branches_of_exec rfl (pred_greaterOrEqualSigned_iff_le _ _)
  case bltu => exact branches_of_exec rfl (pred_lessUnsigned_iff _ _)
  case bgeu => exact branches_of_exec rfl (pred_greaterOrEqualUnsigned_iff_le _ _)

/-! ### The predicate table (R173) -/

theorem controlTaken_alwaysTaken {r : InstructionRecord} (h : r.branchOp = some .alwaysTaken) :
    controlTaken r = some true := by
  rw [controlTaken, h]

theorem controlTaken_neverTaken {r : InstructionRecord} (h : r.branchOp = some .neverTaken) :
    controlTaken r = some false := by
  rw [controlTaken, h]

/-- The record that no decoded word has: the stages run it as the template, whose predicate is constantly false. -/
theorem runRecord_neverTaken (rs1 rs2 : RegIdx) (offset : BitVec 13) (s : State) :
    runRecord (recordBranch .neverTaken rs1 rs2 offset) s = .next (s.complete s.nextPc) :=
  runRecord_branch .neverTaken rs1 rs2 offset s

/-- Settles O13: the six comparisons on integers, and the constants read off their definitions. -/
theorem predicateTable : Obligations.PredicateTable := by
  refine ⟨fun a b => ⟨pred_equal_iff a b, pred_notEqual_iff a b, pred_lessSigned_iff a b,
      pred_greaterOrEqualSigned_iff_le a b, pred_lessUnsigned_iff a b, pred_greaterOrEqualUnsigned_iff_le a b,
      rfl, rfl, rfl, rfl, rfl⟩,
    fun r => ⟨controlTaken_alwaysTaken, controlTaken_neverTaken⟩,
    fun rs1 rs2 offset s => ⟨_, runRecord_neverTaken rs1 rs2 offset s, ?_⟩⟩
  rw [← State.nextPc_eq_displaced]
  exact transferStep_complete s s.nextPc

/-! ### JAL and JALR (R180, R181) -/

/-- A jump with a link, from the old `base`, which for JALR may be the register that the link is written to. -/
theorem registerStep_link {n : Nat} (hn : n ≤ 32) (s : State) (rd : RegIdx) (base : Word) (d : BitVec n) :
    RegisterStep s ((s.writeReg rd s.nextPc).complete (base + d.signExtend 32)) rd (displaced s.pc 4)
      (displaced base d.toInt) := by
  rw [← State.nextPc_eq_displaced, displaced_toInt hn]
  exact registerStep_complete s rd _ _

/-- Settles O29: the base is the pc of the JAL itself. -/
theorem jumpAndLinkComplete : Obligations.JumpAndLinkComplete :=
  ⟨fun rd offset s => ⟨_, rfl, registerStep_link (by decide) s rd s.pc offset⟩,
    rowDecodes_formatJ fun w => ⟨evenOffset_fieldImmJ w, rfl⟩⟩

/-- Settles O30: the base is `x[rs1]` before the link is written. -/
theorem jumpRegisterComplete : Obligations.JumpRegisterComplete :=
  ⟨fun rd rs1 imm s => ⟨_, rfl, registerStep_link (by decide) s rd (s.readReg rs1) imm⟩,
    rowDecodes_formatI fun _ => ⟨rfl, rfl⟩⟩

/-! ### Misaligned targets (R171) -/

theorem step_of_not_inMemory {s : State} (hr : s.runState = .running) (h : ¬InMemory s s.pc) :
    step s = .fault .fetchFailure := by
  have hf : s.fetch = .error .fetchFailure := if_neg (mt (accessible_iff s s.pc).1 h)
  rw [step, hr, hf]
  rfl

theorem evenOffset_iff {n : Nat} (a : BitVec n) : evenOffset a = true ↔ a.toNat % 2 = 0 := by
  rw [evenOffset, BitVec.getLsbD, Nat.testBit_zero]
  simp

theorem evenOffset_signExtend {n : Nat} {d : BitVec n} (hn : 0 < n) (h : evenOffset d = true) :
    evenOffset (d.signExtend 32) = true := by
  rw [evenOffset, BitVec.getLsbD_signExtend, if_pos hn]
  exact h

theorem evenOffset_add {a b : Word} (ha : evenOffset a = true) (hb : evenOffset b = true) :
    evenOffset (a + b) = true := by
  rw [evenOffset_iff] at *
  rw [BitVec.toNat_add]
  omega

theorem evenOffset_nextPc {s : State} (h : evenOffset s.pc = true) : evenOffset s.nextPc = true :=
  evenOffset_add h rfl

theorem evenOffset_branchTarget {s : State} {offset : BitVec 13} (op : BranchOp) (rs1 rs2 : RegIdx)
    (hpc : evenOffset s.pc = true) (hoffset : evenOffset offset = true) :
    evenOffset (branchTarget op rs1 rs2 offset s) = true := by
  rw [branchTarget]
  split
  · exact evenOffset_add hpc (evenOffset_signExtend (by decide) hoffset)
  · exact evenOffset_nextPc hpc

/-- From an even pc every instruction but JALR goes to an even pc: `immB` and `immJ` are even. -/
theorem evenOffset_successor {i : Instr} {s : State} (hwf : i.wellFormed = true) (hpc : evenOffset s.pc = true)
    (hjalr : ∀ rd rs1 imm, i ≠ .jalr rd rs1 imm) : evenOffset (successor s i) = true := by
  cases i with
  | beq | bne | blt | bge | bltu | bgeu => exact evenOffset_branchTarget _ _ _ hpc hwf
  | jal rd offset => exact evenOffset_add hpc (evenOffset_signExtend (by decide) hwf)
  | jalr rd rs1 imm => exact absurd rfl (hjalr rd rs1 imm)
  | _ => exact evenOffset_nextPc hpc

/-- The target of a JALR whose base register has just been written; no bit of the sum is cleared (R181). -/
theorem registerTarget_writeReg {rs1 : RegIdx} (h : rs1 ≠ 0#5) (s : State) (v : Word) (imm : BitVec 12) :
    (s.writeReg rs1 v).registerTarget rs1 imm = v + immShort imm := by
  rw [State.registerTarget, State.readReg_writeReg_self, if_neg h]

/-- Settles O31: a pc off a multiple of 4 is in no memory; the even pcs are those that are 0 or 2 modulo 4; and JALR
reaches a target from the base that is its immediate short of it. -/
theorem misalignedTargetFaultsNextFetch : Obligations.MisalignedTargetFaultsNextFetch := by
  refine ⟨fun s t h hmis => ?fault, fun i s t hwf hpc h hjalr => ?even, fun target rd rs1 imm s hrs1 => ?any⟩
  case fault =>
    obtain ⟨-, hr, -⟩ := everyStepRetiresOne s t h
    exact step_of_not_inMemory hr fun ⟨haligned, _⟩ => hmis haligned
  case even =>
    have heven : evenOffset t.pc = true := by
      rw [exec_next_pc h]
      exact evenOffset_successor hwf ((evenOffset_iff _).2 (by omega)) hjalr
    rw [evenOffset_iff] at heven
    omega
  case any =>
    refine ⟨target - immShort imm, _, rfl, ?_⟩
    exact (registerTarget_writeReg hrs1 s _ imm).trans (BitVec.sub_add_cancel target _)

end Sys2Proof.Machine
end

section
/-! PROOFS. The family of 44_auipc_csr.md: the CSR accesses that complete, those that fault, and the words of their
rows. -/

namespace Sys2Proof.Machine

/-! ### The words of CSRR and CSRW (30_encoding.md R63, R71), as `rowDecodes_formatI` with a register field fixed too -/

theorem rowDecodes_csrr : RowDecodes 0x00002073#32 0x000FF07F#32 (fun w => .csrr (fieldRd w) (fieldCsr w)) := by
  intro w hw
  obtain ⟨hop, hread⟩ := fields_of_and_maskRead hw
  exact (decode_system hop).trans (if_pos hread)

theorem rowDecodes_csrw : RowDecodes 0x00001073#32 0x00007FFF#32 (fun w => .csrw (fieldCsr w) (fieldRs1 w)) := by
  intro w hw
  obtain ⟨hop, h3, hrd⟩ := fields_of_and_maskWrite hw
  have hread : ¬(fieldFunct3 w = 0b010#3 ∧ fieldRs1 w = 0#5) := fun ⟨h, _⟩ => absurd (h3.symm.trans h) (by decide)
  exact (decode_system hop).trans ((if_neg hread).trans (if_pos ⟨h3, hrd⟩))

/-! ### CSRR (R191) -/

theorem exec_csrr_cycle (rd : RegIdx) (s : State) :
    exec (.csrr rd Config.csrCycle) s = .next ((s.writeReg rd s.csrCycle).complete s.nextPc) := rfl

/-- The three CSRs are all there are (10_state.md R24). -/
theorem State.readCsr_of_unimplemented {c : CsrIdx} (s : State) (hcycle : c ≠ Config.csrCycle)
    (hinstret : c ≠ Config.csrInstret) (htohost : c ≠ Config.csrTohost) : s.readCsr c = .error .csrFailure :=
  (if_neg htohost).trans ((if_neg hcycle).trans (if_neg hinstret))

theorem exec_csrr_of_readCsr_error {rd : RegIdx} {c : CsrIdx} {s : State} {f : Fault} (h : s.readCsr c = .error f) :
    exec (.csrr rd c) s = .fault f :=
  congrArg (orFault · fun v => finishWrite s rd v s.nextPc) h

/-- Settles O32: a counter's read is a register write of its value, taken from the state before the retirement; the
fault comes from the read itself, before `rd` is looked at. -/
theorem csrReadResult : Obligations.CsrReadResult := by
  refine ⟨fun rd c s => ⟨?cycle, ?instret, ?unimplemented⟩, rowDecodes_csrr⟩
  case cycle =>
    rintro rfl
    exact ⟨_, exec_csrr_cycle rd s, registerStep_nextPc s rd s.csrCycle⟩
  case instret =>
    rintro rfl
    exact ⟨_, exec_csrr_instret rd s, registerStep_nextPc s rd s.csrInstret⟩
  case unimplemented =>
    rintro ⟨hcycle, hinstret, htohost⟩
    exact exec_csrr_of_readCsr_error (s.readCsr_of_unimplemented hcycle hinstret htohost)

/-! ### CSRW (R192) -/

theorem exec_csrw_of_ne_tohost {c : CsrIdx} (rs1 : RegIdx) (s : State) (h : c ≠ Config.csrTohost) :
    exec (.csrw c rs1) s = .fault .csrFailure :=
  (execCsrw_eq c rs1 s).trans (if_neg h)

/-- Settles O34: the write to `tohost` touches the queue alone before the instruction ends; no other index can be
written, `cycle` and `instret` included. -/
theorem csrWriteResult : Obligations.CsrWriteResult := by
  refine ⟨fun c rs1 s => ⟨?tohost, exec_csrw_of_ne_tohost rs1 s⟩, rowDecodes_csrw⟩
  case tohost =>
    rintro rfl
    have hretires : Retires s ((s.pushHost (s.readReg rs1)).complete s.nextPc) (displaced s.pc 4) :=
      ⟨s.nextPc_eq_displaced, rfl, rfl, rfl, rfl⟩
    exact ⟨_, exec_csrw_tohost rs1 s, hretires, fun _ => rfl, fun _ => rfl, rfl⟩

end Sys2Proof.Machine
end

section
/-! PROOFS. The family of 60_exceptions.md: where a step stops before its instruction runs, the host's moves, and the
polled run. -/

namespace Sys2Proof.Machine

/-! ### The stops before an instruction runs (R201, R206) -/

theorem step_of_inReset {s : State} (h : s.runState = .inReset) : step s = .refused .stepBeforeReset := by
  rw [step, h]

theorem step_of_illegal {s : State} {w : Word} {c : IllegalClass} (hr : s.runState = .running) (hf : s.fetch = .ok w)
    (hd : decode w = .error c) : step s = .refused (.illegalWord c w) := by
  rw [step_of_fetch hr hf, hd]

/-- Settles O40: S0 refuses, S1 faults, S2 refuses, each with the stages before it passed. -/
theorem stopsInStageOrder : Obligations.StopsInStageOrder := by
  refine fun s => ⟨step_of_inReset, fun ⟨hr, hout⟩ => step_of_not_inMemory hr hout, fun ⟨hr, hin⟩ c hd => ?_⟩
  exact step_of_illegal hr (State.fetch_of_accessible ((accessible_iff s s.pc).2 hin)) hd

/-! ### The host's moves (R215) -/

theorem hostLoad_cons_of_accessible {a : Word} {s : State} (v : Word) (rest : List (Word × Word))
    (hr : s.runState = .inReset) (ha : s.accessible a = true) :
    hostLoad ((a, v) :: rest) s = hostLoad rest (s.storeWord a v) := by
  simp only [hostLoad, hr, ha, if_true]

/-- Everything an accepted load of one more word can be. -/
theorem hostLoad_cons_next {a v : Word} {rest : List (Word × Word)} {s t : State}
    (h : hostLoad ((a, v) :: rest) s = .next t) :
    s.runState = .inReset ∧ s.accessible a = true ∧ hostLoad rest (s.storeWord a v) = .next t := by
  rw [hostLoad] at h
  split at h
  next => cases h
  next hr =>
    split at h
    next ha => exact ⟨hr, ha, h⟩
    next => cases h

/-- A load is a sequence of stores, each of which keeps the invariant. -/
theorem hostLoad_keeps_inv {image : List (Word × Word)} {s t : State} (hs : s.Inv) (h : hostLoad image s = .next t) :
    t.Inv := by
  induction image generalizing s with
  | nil =>
    cases h
    exact hs
  | cons word rest ih =>
    obtain ⟨a, v⟩ := word
    obtain ⟨-, -, hrest⟩ := hostLoad_cons_next h
    exact ih (hs.storeWord a v) hrest

/-- The invariant does not speak of the queue. -/
theorem State.Inv.pollHostMessage {s : State} (h : s.Inv) : (pollHostMessage s).2.Inv := by
  rw [pollHostMessage_keeps]
  exact h

/-- Everything an accepted poll can be (R215, 70_reset_and_hazards.md R231). -/
theorem hostMove_poll_next {s t : State} (h : hostMove .poll s = .next t) :
    s.runState = .running ∧ t = (pollHostMessage s).2 := by
  rw [hostMove] at h
  split at h
  next hr =>
    cases h
    exact ⟨hr, rfl⟩
  next => cases h

/-- Settles O52, move by move. -/
theorem hostMovesKeepTheInvariant : Obligations.HostMovesKeepTheInvariant := by
  intro m s t hs h
  cases m with
  | load image => exact hostLoad_keeps_inv hs h
  | reset startAddress =>
    obtain ⟨hmem, hzero, -⟩ := hs
    cases h
    exact hostReset_inv startAddress hmem hzero
  | step => exact everyStepKeepsTheInvariant s t hs h
  | poll =>
    obtain ⟨-, rfl⟩ := hostMove_poll_next h
    exact hs.pollHostMessage
  | stop =>
    cases h
    exact hs

/-- Settles O58: the reset leaves memory and MEM_VALID alone, so the fetch at `startAddress` is of the stored word. -/
theorem loadedProgramIsFetched : Obligations.LoadedProgramIsFetched := by
  intro s a v i hm hr hin hd
  have ha : s.accessible a = true := (accessible_iff s a).2 hin
  have hfetch : (hostReset a (s.storeWord a v)).fetch = .ok v := fetch_of_mem_eq_setWord hm ha rfl rfl rfl
  exact ⟨_, hostLoad_cons_of_accessible v [] hr ha, step_of_decode rfl hfetch hd⟩

/-! ### The polled run (R216) -/

/-- A completed step appends one message or none (R103, C7). -/
theorem step_hostQueue {s t : State} (h : step s = .next t) :
    t.hostQueue = s.hostQueue ∨ ∃ v, t.hostQueue = s.hostQueue ++ [v] := by
  obtain ⟨_, i, -, -, -, hexec⟩ := step_next h
  obtain hsame | ⟨rs1, -, hsent⟩ := onlyCsrwSendsMessages i s t hexec
  · exact .inl hsame
  · exact .inr ⟨_, hsent⟩

/-- The first message of the run from `s` is `v`, pending alone after `n` completed steps; `t` is the state once it is
polled. -/
def FirstMessage (s : State) (v : Word) (n : Nat) (t : State) : Prop :=
  t.hostQueue = [] ∧ core.run n s = .next { t with hostQueue := [v] } ∧
  ∀ k, k < n → ∃ u, core.run k s = .next u ∧ u.hostQueue = []

theorem firstMessage_of_step {s u : State} {v : Word} (hempty : s.hostQueue = []) (hstep : step s = .next u)
    (hsent : u.hostQueue = [v]) : FirstMessage s v 1 { u with hostQueue := [] } := by
  refine ⟨rfl, ?run, fun k hk => ?before⟩
  case run =>
    rw [run_of_step 0 hstep, ← hsent]
    rfl
  case before =>
    obtain rfl : k = 0 := Nat.lt_one_iff.1 hk
    exact ⟨s, rfl, hempty⟩

theorem FirstMessage.of_silent_step {s u t : State} {v : Word} {n : Nat} (h : FirstMessage u v n t)
    (hempty : s.hostQueue = []) (hstep : step s = .next u) : FirstMessage s v (n + 1) t := by
  obtain ⟨hpolled, hrun, hbefore⟩ := h
  refine ⟨hpolled, (run_of_step n hstep).trans hrun, fun k hk => ?before⟩
  case before =>
    cases k with
    | zero => exact ⟨s, rfl, hempty⟩
    | succ k =>
      rw [run_of_step k hstep]
      exact hbefore k (Nat.lt_of_succ_lt_succ hk)

/-- Everything a round of the polled run from an empty queue can be, where the run ends with a message: its step sent
the message, or it sent none and the rest of the run ends with it. -/
theorem runUntilMessageFrom_succ_message {fuel completed : Nat} {s : State} {v : Word} {n : Nat} {t : State}
    (hempty : s.hostQueue = []) (h : runUntilMessageFrom (fuel + 1) completed s = .message v n t) :
    ∃ u, step s = .next u ∧
      ((u.hostQueue = [v] ∧ n = completed + 1 ∧ t = { u with hostQueue := [] }) ∨
        (u.hostQueue = [] ∧ runUntilMessageFrom fuel (completed + 1) u = .message v n t)) := by
  rw [runUntilMessageFrom] at h
  split at h
  next => cases h
  next => cases h
  next u hstep =>
    refine ⟨u, hstep, ?_⟩
    have hqueue := step_hostQueue hstep
    rw [hempty] at hqueue
    obtain hnone | ⟨w, hsent⟩ := hqueue
    · rw [pollHostMessage_empty hnone] at h
      exact .inr ⟨hnone, h⟩
    · rw [pollHostMessage_pending hsent] at h
      cases h
      exact .inl ⟨hsent, rfl, rfl⟩

theorem firstMessage_of_runUntilMessageFrom {fuel completed : Nat} {s : State} {v : Word} {n : Nat} {t : State}
    (hempty : s.hostQueue = []) (h : runUntilMessageFrom fuel completed s = .message v n t) :
    ∃ m, m ≤ fuel ∧ n = completed + m ∧ FirstMessage s v m t := by
  induction fuel generalizing completed s with
  | zero => cases h
  | succ fuel ih =>
    obtain ⟨u, hstep, ⟨hsent, rfl, rfl⟩ | ⟨hnone, hrest⟩⟩ := runUntilMessageFrom_succ_message hempty h
    · exact ⟨1, Nat.succ_pos fuel, rfl, firstMessage_of_step hempty hstep hsent⟩
    · obtain ⟨m, hle, rfl, hfirst⟩ := ih hnone hrest
      exact ⟨m + 1, Nat.succ_le_succ hle, by omega, hfirst.of_silent_step hempty hstep⟩

/-- Settles O57: the count of the run starts at 0. -/
theorem runEndsAtTheFirstMessage : Obligations.RunEndsAtTheFirstMessage := by
  intro fuel s v n t hempty h
  obtain ⟨m, hle, rfl, hfirst⟩ := firstMessage_of_runUntilMessageFrom hempty h
  rw [Nat.zero_add]
  exact ⟨hle, hfirst⟩

end Sys2Proof.Machine
end

section
/-! PROOFS. The family of 70_reset_and_hazards.md: the clock cycle with `reset_req`, and what `reset(startAddress)`
leaves as it was. -/

namespace Sys2Proof.Machine

/-! ### The reset cycle (R230) -/

/-- With no write enable and no retirement, the closing edge of a reset cycle is the CSR file's `reset()` and the core's
two registers. -/
theorem clockEdge_csrReset {c : CoreCycle} {inp : CycleInputs} (hp : inp.hostPoll = false)
    (hstore : c.ports.dmemWrite = none) (hrf : c.ports.rfWrite = none) (hcsr : c.ports.csrWrite = none)
    (hretire : c.ports.csrRetire = false) (hreset : c.ports.csrReset = true) (s : State) :
    clockEdge c inp s = { s.resetCsrs with pc := c.nextPc, runState := c.nextRunState } := by
  simp [clockEdge, hp, State.edgeMemory, State.edgeRegisters, State.edgeCsrs, State.edgeCsrWrite, hstore, hrf, hcsr,
    hretire, hreset]

/-- R230 has priority: neither `step_en` nor what the collaborators answer appears in the next state. -/
theorem cycle_reset {inp : CycleInputs} (hreset : inp.resetReq = true) (hp : inp.hostPoll = false) (s : State) :
    cycle inp s = .next (hostReset inp.startAddress s, idlePorts s.pc s.runState inp (answers inp s)) := by
  rw [cycle_of_noPoll hp, coreCycle_reset hreset, clockEdge_csrReset hp rfl rfl rfl rfl hreset]
  rfl

/-! ### `reset(startAddress)` (R230, R231) -/

theorem hostReset_sameRegisters (a : Word) (s : State) : SameRegisters s (hostReset a s) := fun _ => rfl

/-- Settles O53: the fields of `hostReset`, and the cycle with `reset_req` as `cycle_reset` gives it. -/
theorem resetEffects : Obligations.ResetEffects := by
  intro a s
  refine ⟨⟨rfl, rfl, rfl, rfl, rfl, hostReset_sameRegisters a s, rfl, rfl⟩, fun stepEn => ?cycle⟩
  case cycle => exact ⟨_, cycle_reset rfl rfl s, rfl, rfl, rfl, rfl, rfl⟩

end Sys2Proof.Machine
end
